-- ==== Sys2Proof/Word.lean ====
section
/-! DEFINITION. The word and byte types of the engine (00_scope.md R6, R11): every datapath word is exactly 32 bits
wide and unsigned, every message or digest element is 8 bits wide. -/

namespace Sys2Proof

/-- A word of 32 bits (`WORD = 32`, 00_scope.md R6); arithmetic on it wraps modulo `2^32` (R14). -/
abbrev Word := BitVec 32

/-- A byte: a character code `0 .. 255` (`CHARW = 8`, 00_scope.md R6). -/
abbrev Byte := BitVec 8

end Sys2Proof
end

