-- ==== Sys2Proof/Syntax.lean ====
section
/-! DEFINITION. The instructions: one constructor per row of spec/opcode_table.json, at the three levels of
30_encoding.md (host commands `CMD32`, micro-operations `SEQ9`, word-unit functions `WU9`), and the control words
that carry them. -/

namespace Sys2Proof

/-- Every operation of the opcode table (30_encoding.md R73, R80, R79). -/
inductive Instr where
  /-- Host command `CLR` (45_host_commands.md R191). -/
  | clr
  /-- Host command `PUSH code16` (45_host_commands.md R192). -/
  | push (code : BitVec 16)
  /-- Host command `HASH` (45_host_commands.md R194). -/
  | hash
  /-- Host command `RDHEX idx` (45_host_commands.md R197). -/
  | rdhex (idx : BitVec 6)
  /-- Host command `RDH idx` (45_host_commands.md R198). -/
  | rdh (idx : BitVec 3)
  /-- Host command `RDSTAT` (45_host_commands.md R199). -/
  | rdstat
  /-- Micro-operation `HINIT` (43_compression.md R163). -/
  | hinit
  /-- Micro-operation `BLKFETCH` (41_padder.md R140). -/
  | blkfetch
  /-- Micro-operation `WLOAD` (42_schedule.md R150). -/
  | wload
  /-- Micro-operation `WEXP i` (42_schedule.md R151); `i < 16` names no operation. -/
  | wexp (i : BitVec 6)
  /-- Micro-operation `RINIT` (43_compression.md R164). -/
  | rinit
  /-- Micro-operation `ROUND i` (43_compression.md R165). -/
  | round (i : BitVec 6)
  /-- Micro-operation `HADD` (43_compression.md R167). -/
  | hadd
  /-- Micro-operation `HEXFMT` (44_formatter.md R183). -/
  | hexfmt
  /-- Word-unit function `AND` (40_word_unit.md R101). -/
  | and
  /-- Word-unit function `NOT` (40_word_unit.md R102). -/
  | not
  /-- Word-unit function `XOR` (40_word_unit.md R103). -/
  | xor
  /-- Word-unit function `ROTR n` (40_word_unit.md R104). -/
  | rotr (n : BitVec 5)
  /-- Word-unit function `SHR n` (40_word_unit.md R105). -/
  | shr (n : BitVec 5)
  /-- Word-unit function `ADD` (40_word_unit.md R106). -/
  | add
  /-- Word-unit function `MAJ` (40_word_unit.md R108). -/
  | maj
  /-- Word-unit function `SSIG0` (40_word_unit.md R110). -/
  | ssig0
  /-- Word-unit function `SSIG1` (40_word_unit.md R111). -/
  | ssig1
  /-- Word-unit function `BSIG0` (40_word_unit.md R112). -/
  | bsig0
  /-- Word-unit function `BSIG1` (40_word_unit.md R113). -/
  | bsig1
  /-- Word-unit function `CH` (40_word_unit.md R109). -/
  | ch
  deriving DecidableEq, Repr

/-- A binary word at one of the three levels of 30_encoding.md. The levels have separate encoding spaces: the same
9 bits mean one thing to the sequencer and another to the word unit. -/
inductive ControlWord where
  /-- A host command word (`CMD32`, R70). -/
  | cmd (w : BitVec 32)
  /-- A micro-operation control word (`SEQ9`, R80). -/
  | seq (w : BitVec 9)
  /-- A word-unit control word (`WU9`, R78). -/
  | wu (w : BitVec 9)
  deriving DecidableEq, Repr

/-- The three levels of operation (INDEX.md, 30_encoding.md). -/
inductive Level where
  | hostCommand
  | microOperation
  | wordUnitFunction
  deriving DecidableEq, Repr

/-- The level an instruction belongs to. -/
def Instr.level : Instr → Level
  | .clr | .push _ | .hash | .rdhex _ | .rdh _ | .rdstat => .hostCommand
  | .hinit | .blkfetch | .wload | .wexp _ | .rinit | .round _ | .hadd | .hexfmt => .microOperation
  | .and | .not | .xor | .rotr _ | .shr _ | .add | .maj | .ssig0 | .ssig1 | .bsig0 | .bsig1 | .ch =>
    .wordUnitFunction

end Sys2Proof
end

