-- ==== Sys2Proof/WellFormed.lean ====
section
/-! DEFINITION. Which terms of `Instr` are instructions. Every operand's range is its field's width (30_encoding.md
R71, R72, R79) but one: `WEXP i` needs `16 <= i` (30_encoding.md R80, 42_schedule.md R151). -/

namespace Sys2Proof

/-- Whether the instruction's operands are among those the spec gives it. -/
def Instr.wf : Instr → Bool
  | .wexp i => 16 ≤ i.toNat
  | .clr | .push _ | .hash | .rdhex _ | .rdh _ | .rdstat => true
  | .hinit | .blkfetch | .wload | .rinit | .round _ | .hadd | .hexfmt => true
  | .and | .not | .xor | .rotr _ | .shr _ | .add | .maj | .ssig0 | .ssig1 | .bsig0 | .bsig1 | .ch => true

end Sys2Proof
end

