-- ==== Sys2Proof/Decode.lean ====
section
/-! DEFINITION. Decoding and encoding at the three levels of 30_encoding.md (R70 to R80), and the opcode table itself
as match and mask. Each decoder is total: a word that names no operation is rejected by name. -/

namespace Sys2Proof

/-- Why a word names no operation. -/
inductive DecodeError where
  /-- A command word that matches no row of 30_encoding.md R73 (`ILLEGAL` of R75). -/
  | illegalCommand (w : BitVec 32)
  /-- A `SEQ9` word with no assignment (30_encoding.md R80, 93_implementation_defined.md U6). -/
  | noMicroOperation (w : BitVec 9)
  /-- A `WU9` word with no assignment (30_encoding.md R79, 93_implementation_defined.md U6). -/
  | noFunction (w : BitVec 9)
  deriving DecidableEq, Repr

/-- Bits `hi .. lo` of a value, `v[hi:lo]` of 00_scope.md R11, as the `len = hi - lo + 1` bits from `lo` up. -/
def field {n : Nat} (v : BitVec n) (lo len : Nat) : BitVec len := v.extractLsb' lo len

/-- Decoding of a host command word (30_encoding.md R75). -/
def decodeCmd (w : BitVec 32) : Except DecodeError Instr :=
  if field w 24 8 = 0x01#8 ∧ field w 0 24 = 0#24 then .ok .clr
  else if field w 24 8 = 0x02#8 ∧ field w 16 8 = 0#8 then .ok (.push (field w 0 16))
  else if field w 24 8 = 0x03#8 ∧ field w 0 24 = 0#24 then .ok .hash
  else if field w 24 8 = 0x04#8 ∧ field w 6 18 = 0#18 then .ok (.rdhex (field w 0 6))
  else if field w 24 8 = 0x05#8 ∧ field w 3 21 = 0#21 then .ok (.rdh (field w 0 3))
  else if field w 24 8 = 0x06#8 ∧ field w 0 24 = 0#24 then .ok .rdstat
  else .error (.illegalCommand w)

/-- A micro-operation whose `IDX` "must be 0" (30_encoding.md R80). -/
def plainMicroOp (w : BitVec 9) (i : Instr) : Except DecodeError Instr :=
  if field w 0 6 = 0#6 then .ok i else .error (.noMicroOperation w)

/-- Decoding of a micro-operation control word: `USEL = sq[8:6]`, `IDX = sq[5:0]` (30_encoding.md R80). -/
def decodeSeq (w : BitVec 9) : Except DecodeError Instr :=
  match (field w 6 3).toNat with
  | 0 => plainMicroOp w .hinit
  | 1 => plainMicroOp w .blkfetch
  | 2 => plainMicroOp w .wload
  | 3 => if 16 ≤ (field w 0 6).toNat then .ok (.wexp (field w 0 6)) else .error (.noMicroOperation w)
  | 4 => plainMicroOp w .rinit
  | 5 => .ok (.round (field w 0 6))
  | 6 => plainMicroOp w .hadd
  | 7 => plainMicroOp w .hexfmt
  | _ => .error (.noMicroOperation w)

/-- A word-unit function whose `AMT` "must be 0" (30_encoding.md R79). -/
def plainFunction (w : BitVec 9) (i : Instr) : Except DecodeError Instr :=
  if field w 0 5 = 0#5 then .ok i else .error (.noFunction w)

/-- Decoding of a word-unit control word: `FSEL = wu[8:5]`, `AMT = wu[4:0]` (30_encoding.md R78, R79). -/
def decodeWu (w : BitVec 9) : Except DecodeError Instr :=
  match (field w 5 4).toNat with
  | 0 => plainFunction w .and
  | 1 => plainFunction w .not
  | 2 => plainFunction w .xor
  | 3 => .ok (.rotr (field w 0 5))
  | 4 => .ok (.shr (field w 0 5))
  | 5 => plainFunction w .add
  | 6 => plainFunction w .maj
  | 8 => plainFunction w .ssig0
  | 9 => plainFunction w .ssig1
  | 10 => plainFunction w .bsig0
  | 11 => plainFunction w .bsig1
  | 12 => plainFunction w .ch
  | _ => .error (.noFunction w)

/-- Decoding of a control word at its level. -/
def decode : ControlWord → Except DecodeError Instr
  | .cmd w => decodeCmd w
  | .seq w => decodeSeq w
  | .wu w => decodeWu w

/-- A host command word from its operation code and operand field (30_encoding.md R70). -/
def packCmd (op : BitVec 8) (arg : BitVec 24) : ControlWord := .cmd (op ++ arg)

/-- A `SEQ9` word from its two fields (30_encoding.md R80). -/
def packSeq (usel : BitVec 3) (idx : BitVec 6) : ControlWord := .seq (usel ++ idx)

/-- A `WU9` word from its two fields (30_encoding.md R78). -/
def packWu (fsel : BitVec 4) (amt : BitVec 5) : ControlWord := .wu (fsel ++ amt)

/-- The word of an instruction, from the encoding tables of 30_encoding.md (R73 with the layouts of R71; R80; R79). -/
def encode : Instr → ControlWord
  | .clr => packCmd 0x01#8 0#24
  | .push code => packCmd 0x02#8 (code.zeroExtend 24)
  | .hash => packCmd 0x03#8 0#24
  | .rdhex idx => packCmd 0x04#8 (idx.zeroExtend 24)
  | .rdh idx => packCmd 0x05#8 (idx.zeroExtend 24)
  | .rdstat => packCmd 0x06#8 0#24
  | .hinit => packSeq 0#3 0#6
  | .blkfetch => packSeq 1#3 0#6
  | .wload => packSeq 2#3 0#6
  | .wexp i => packSeq 3#3 i
  | .rinit => packSeq 4#3 0#6
  | .round i => packSeq 5#3 i
  | .hadd => packSeq 6#3 0#6
  | .hexfmt => packSeq 7#3 0#6
  | .and => packWu 0#4 0#5
  | .not => packWu 1#4 0#5
  | .xor => packWu 2#4 0#5
  | .rotr n => packWu 3#4 n
  | .shr n => packWu 4#4 n
  | .add => packWu 5#4 0#5
  | .maj => packWu 6#4 0#5
  | .ssig0 => packWu 8#4 0#5
  | .ssig1 => packWu 9#4 0#5
  | .bsig0 => packWu 10#4 0#5
  | .bsig1 => packWu 11#4 0#5
  | .ch => packWu 12#4 0#5

/-- The row of the opcode table an instruction belongs to: the `match` and `mask` columns of 30_encoding.md R73, R80
and R79, as control words of the row's level. -/
def tableRow : Instr → ControlWord × ControlWord
  | .clr => (.cmd 0x01000000, .cmd 0xFFFFFFFF)
  | .push _ => (.cmd 0x02000000, .cmd 0xFFFF0000)
  | .hash => (.cmd 0x03000000, .cmd 0xFFFFFFFF)
  | .rdhex _ => (.cmd 0x04000000, .cmd 0xFFFFFFC0)
  | .rdh _ => (.cmd 0x05000000, .cmd 0xFFFFFFF8)
  | .rdstat => (.cmd 0x06000000, .cmd 0xFFFFFFFF)
  | .hinit => (.seq 0x000, .seq 0x1FF)
  | .blkfetch => (.seq 0x040, .seq 0x1FF)
  | .wload => (.seq 0x080, .seq 0x1FF)
  | .wexp _ => (.seq 0x0C0, .seq 0x1C0)
  | .rinit => (.seq 0x100, .seq 0x1FF)
  | .round _ => (.seq 0x140, .seq 0x1C0)
  | .hadd => (.seq 0x180, .seq 0x1FF)
  | .hexfmt => (.seq 0x1C0, .seq 0x1FF)
  | .and => (.wu 0x000, .wu 0x1FF)
  | .not => (.wu 0x020, .wu 0x1FF)
  | .xor => (.wu 0x040, .wu 0x1FF)
  | .rotr _ => (.wu 0x060, .wu 0x1E0)
  | .shr _ => (.wu 0x080, .wu 0x1E0)
  | .add => (.wu 0x0A0, .wu 0x1FF)
  | .maj => (.wu 0x0C0, .wu 0x1FF)
  | .ssig0 => (.wu 0x100, .wu 0x1FF)
  | .ssig1 => (.wu 0x120, .wu 0x1FF)
  | .bsig0 => (.wu 0x140, .wu 0x1FF)
  | .bsig1 => (.wu 0x160, .wu 0x1FF)
  | .ch => (.wu 0x180, .wu 0x1FF)

/-- Bitwise and of two control words of one level, `none` across levels. -/
def ControlWord.and? : ControlWord → ControlWord → Option ControlWord
  | .cmd v, .cmd w => some (.cmd (v &&& w))
  | .seq v, .seq w => some (.seq (v &&& w))
  | .wu v, .wu w => some (.wu (v &&& w))
  | _, _ => none

/-- Whether a control word belongs to an instruction's row: `word & mask = match` (30_encoding.md R73). -/
def ControlWord.inRowOf (c : ControlWord) (i : Instr) : Bool :=
  c.and? (tableRow i).2 == some (tableRow i).1

/-- Which control word the bits `w` of a row of `nbits` bits are. A row of 32 bits is a `CMD32` word. A shorter one
has 9 bits, and the opcode table's numbering does not tell its two 9-bit spaces apart: DESIGN CHOICE (log 18), the
word is taken for a `WU9` word where it names a word-unit function and for a `SEQ9` word otherwise. -/
def tableWord (nbits w : Nat) : ControlWord :=
  if nbits = 32 then .cmd (BitVec.ofNat 32 w)
  else
    match decodeWu (BitVec.ofNat 9 w) with
    | .ok _ => .wu (BitVec.ofNat 9 w)
    | .error _ => .seq (BitVec.ofNat 9 w)

/-- The instruction the decoders read from the bits `w` of a row of `nbits` bits, where the bits fit the row's width
(32, or 9 in two bytes). -/
def decodeTableWord (nbits w : Nat) : Option Instr :=
  if w < (if nbits = 32 then 2 ^ 32 else 2 ^ 9) then (decode (tableWord nbits w)).toOption else none

end Sys2Proof
end

