-- ==== Sys2Proof/Config.lean ====
section
/-! DEFINITION. What the spec leaves open. Every constant here but the last two is OPAQUE: it has no body, so nothing
in Lean can evaluate it or prove a value of it. -/

namespace Sys2Proof

/-- DESIGN CHOICE (log 3): `H[k]` before anything has written it. The spec says it "holds no value" and that a model
"must not pick zero, or the IV" (10_state.md R34). -/
opaque Config.unwrittenH : Nat → BitVec 32

/-- DESIGN CHOICE (log 3): working register number `k` (`a` is 0, `h` is 7) before anything has written it. -/
opaque Config.unwrittenWork : Nat → BitVec 32

/-- DESIGN CHOICE (log 3): `W[t]` before anything has written it. -/
opaque Config.unwrittenW : Nat → BitVec 32

/-- DESIGN CHOICE (log 3): `BLKBUF[t]` before anything has written it. -/
opaque Config.unwrittenBlkbuf : Nat → BitVec 32

/-- DESIGN CHOICE (log 3): `DIGEST[j]` before anything has written it. -/
opaque Config.unwrittenDigest : Nat → BitVec 8

/-- DESIGN CHOICE (log 3): `BLK` before anything has written it. -/
opaque Config.unwrittenBlk : Nat

/-- DESIGN CHOICE (log 3): `NBLK` before anything has written it. -/
opaque Config.unwrittenNblk : Nat

/-- DESIGN CHOICE (log 3): `T` before anything has written it, some number of its range `0 .. 64` (10_state.md R20). -/
opaque Config.unwrittenT : Fin 65

/-- DESIGN CHOICE (log 6): what a port of the word unit carries before anything drives it (`X`, `Y`, `Z`, `R` are
0, 1, 2, 3). -/
opaque Config.unwrittenPort : Nat → BitVec 32

/-- DESIGN CHOICE (log 4): a byte of `MSG` that nothing has written. Every meaning that reads `MSG` first checks that
the bytes it reads have been written, so no state that a step answers holds one of these. -/
opaque Config.unwrittenByte : Nat → BitVec 8

/-- DESIGN CHOICE (log 7), a free value: word `t` of `BLKBUF` after a `BLKFETCH` outside the precondition of
41_padder.md R140, as a function of what the operation reads (`MSG`, `MLEN`, `BLK`, `NBLK`). -/
opaque Config.fetchedOutside (msg : List (Nat × BitVec 8)) (mlen blk nblk t : Nat) : BitVec 32

/-- DESIGN CHOICE (log 21), a free value: what stands for the padding of a message of `2^64` bits or more. `pad` has the
precondition `L < 2^64` and a model "gives no value outside it" (93_implementation_defined.md U3). -/
opaque Config.padOutside (m : List Bool) : List Bool

/-- DESIGN CHOICE (log 21), a free value: byte `i` of what stands for the padding of `n` bytes with `8 * n >= 2^64`. -/
opaque Config.padByteOutside (n i : Nat) : BitVec 8

/-- The bound on the open parameter `MSG_MAX_BYTES`: `0 <= MSG_MAX_BYTES <= 2^61 - 1` (00_scope.md R7). -/
abbrev Config.Capacity := Fin (2 ^ 61)

/-- DESIGN CHOICE (log 5): the value of the open parameter `MSG_MAX_BYTES` in `State.reset`, the largest the spec
allows. A state carries its own value, and statements over all states cover every value. -/
def Config.resetCapacity : Config.Capacity := ⟨2 ^ 61 - 1, by decide⟩

end Sys2Proof
end

