-- ==== Sys2Proof/Machine/State.lean ====
section
/-! DEFINITION. The state of the engine (10_state.md R20), plain data, with the model's own fields beside it; the
reasons a step can stop; the state after reset (10_state.md R35). -/

namespace Sys2Proof.Machine

/-- The protocol mode (10_state.md R30). -/
inductive Mode where
  /-- A message is being assembled. -/
  | load
  /-- `HASH` has completed; the digest is readable. -/
  | done
  /-- A fault is latched. -/
  | error
  deriving DecidableEq, Repr

/-- The eight working registers of the round datapath (10_state.md R22). -/
structure Work where
  a : Word
  b : Word
  c : Word
  d : Word
  e : Word
  f : Word
  g : Word
  h : Word
  deriving DecidableEq, Repr

/-- The word unit's operand inputs `X`, `Y`, `Z` and its result `R` (30_encoding.md R78): the wires of the model's
bench, not registers of the engine (log 6). -/
structure Ports where
  x : Word
  y : Word
  z : Word
  r : Word
  deriving DecidableEq, Repr

/-- What the outside world does to the machine at one step (00_scope.md R8). -/
inductive Event where
  /-- The reset input `RST` (70_reset_and_hazards.md R240). -/
  | rst
  /-- The host issues a command word (00_scope.md R9). -/
  | cmd (w : BitVec 32)
  /-- A `SEQ9` word is put to the sequencer alone: the model's bench, no move of the host (log 6). -/
  | seq (w : BitVec 9)
  /-- A `WU9` word is put to the word unit alone with operands on its inputs: the model's bench (log 6). -/
  | wu (w : BitVec 9) (x y z : Word)
  deriving DecidableEq, Repr

/-- The machine's state. `H` to `T` are 10_state.md R20; `msgMax` is the parameter `MSG_MAX_BYTES` (00_scope.md R7),
which no operation writes; `wu`, `resp` and `stream` are the model's own. -/
structure State where
  /-- Hash state `H[0..7]` (R21). -/
  H : Vector Word 8
  /-- Working registers `a b c d e f g h` (R22). -/
  work : Work
  /-- Message schedule `W[0..63]` (R23). -/
  W : Vector Word 64
  /-- Block buffer `BLKBUF[0..15]` (R24). -/
  BLKBUF : Vector Word 16
  /-- Message memory (R25): the bytes written, by rising index; a byte not listed has no value. -/
  MSG : List Host.Cell
  /-- Message length in bytes (R25). -/
  MLEN : Nat
  /-- Digest string `DIGEST[0..63]` (R26). -/
  DIGEST : Vector Byte 64
  /-- Protocol mode (R30). -/
  MODE : Mode
  /-- Code of the latched fault (R31). -/
  ERRCODE : BitVec 4
  /-- Index of the next block to fetch (R27). -/
  BLK : Nat
  /-- Number of blocks of the padded message (R27). -/
  NBLK : Nat
  /-- Index of the next schedule word or round, `0 .. 64` (R27). -/
  T : Nat
  /-- `MSG_MAX_BYTES`, the capacity of the message memory (00_scope.md R7; log 5). -/
  msgMax : Config.Capacity
  /-- The word unit's ports (log 6). -/
  wu : Ports
  /-- The response of the last event taken, if it gave one (00_scope.md R9; log 2). -/
  resp : Option Word
  /-- The events still to come, the next one first (log 1). -/
  stream : List Event
  deriving DecidableEq, Repr

/-- Why the machine stops. The spec's own faults are no stops (they are next states, 60_exceptions.md R216); these
two answer an access to message memory that the spec excludes. -/
inductive Fault where
  /-- Raised by `BLKFETCH` and `HASH` when a byte below `MLEN` has no value (10_state.md R25, R34). Safe: the spec
  gives such a read no value, and no state reached from reset has such a byte (10_state.md R37 (a)). -/
  | unwrittenMessageByte
  /-- Raised by `PUSH`, `BLKFETCH` and `HASH` when the message reaches beyond index `MSG_MAX_BYTES - 1`, which does
  not exist (20_memory.md R50). Safe: no state reached from reset has `MLEN > MSG_MAX_BYTES` (10_state.md R37 (a)). -/
  | noSuchMessageByte
  deriving DecidableEq, Repr

/-- Why an instruction has no meaning. -/
inductive Refusal where
  /-- An instruction whose meaning is not written yet: raised by no arm of `exec`. Safe. -/
  | notModelled (mnemonic : String)
  /-- Raised for a `SEQ9` word that names no operation, and by `WEXP i` with `i < 16` (93_implementation_defined.md
  U6: "REFUSE"). Safe: the sequencer never issues one. -/
  | reservedMicroOp (w : BitVec 9)
  /-- Raised for a `WU9` word that names no function (93_implementation_defined.md U6: "REFUSE"). Safe: the datapath
  never produces one. -/
  | reservedFunction (w : BitVec 9)
  deriving DecidableEq, Repr

/-- The state after reset (10_state.md R35): `MODE = LOAD`, `ERRCODE = 0`, `MLEN = 0`, and no value anywhere else.
Where the spec gives no value the field holds an opaque constant of `Config` (DESIGN CHOICE, log 3, log 6). -/
def State.reset : State where
  H := Vector.ofFn fun k => Config.unwrittenH k.val
  work :=
    { a := Config.unwrittenWork 0, b := Config.unwrittenWork 1, c := Config.unwrittenWork 2,
      d := Config.unwrittenWork 3, e := Config.unwrittenWork 4, f := Config.unwrittenWork 5,
      g := Config.unwrittenWork 6, h := Config.unwrittenWork 7 }
  W := Vector.ofFn fun t => Config.unwrittenW t.val
  BLKBUF := Vector.ofFn fun t => Config.unwrittenBlkbuf t.val
  MSG := []
  MLEN := 0
  DIGEST := Vector.ofFn fun j => Config.unwrittenDigest j.val
  MODE := .load
  ERRCODE := 0#4
  BLK := Config.unwrittenBlk
  NBLK := Config.unwrittenNblk
  T := Config.unwrittenT.val
  msgMax := Config.resetCapacity
  wu :=
    { x := Config.unwrittenPort 0, y := Config.unwrittenPort 1, z := Config.unwrittenPort 2,
      r := Config.unwrittenPort 3 }
  resp := none
  stream := []

end Sys2Proof.Machine
end

