-- ==== Sys2Proof/Machine/Datapath.lean ====
section
/-! DEFINITION. The pure functions of the datapath: the twelve word functions (40_word_unit.md), the schedule
recurrence (42_schedule.md), one round and the block function (43_compression.md), the hexadecimal rendering
(44_formatter.md). They read no state and write none (40_word_unit.md R100). -/

namespace Sys2Proof.Machine

/-- `AND` (40_word_unit.md R101). -/
def wordAnd (x y : Word) : Word := x &&& y

/-- `NOT` (40_word_unit.md R102). -/
def wordNot (x : Word) : Word := ~~~x

/-- `XOR` (40_word_unit.md R103). -/
def wordXor (x y : Word) : Word := x ^^^ y

/-- `ROTR` by an amount of 5 bits (40_word_unit.md R104): `R = X` for amount 0. -/
def wordRotr (n : BitVec 5) (x : Word) : Word :=
  if n = 0#5 then x else (x >>> n.toNat) ||| (x <<< (32 - n.toNat))

/-- `SHR` by an amount of 5 bits (40_word_unit.md R105): zeros enter at the top. -/
def wordShr (n : BitVec 5) (x : Word) : Word := x >>> n.toNat

/-- `ADD` (40_word_unit.md R106): the sum modulo `2^32`; no flag. -/
def wordAdd (x y : Word) : Word := x + y

/-- The majority of three bits (40_word_unit.md R107): 1 exactly when at least two of them are. -/
def majority (x y z : Bool) : Bool := decide (2 ≤ x.toNat + y.toNat + z.toNat)

/-- The carry into bit `i` of the ripple-carry reading of `ADD` (40_word_unit.md R106): `c_0 = 0`,
`c_(i+1) = majority(X[i], Y[i], c_i)`. -/
def rippleCarry (x y : Word) : Nat → Bool
  | 0 => false
  | i + 1 => majority (x.getLsbD i) (y.getLsbD i) (rippleCarry x y i)

/-- Bit `i` of the sum in the ripple-carry reading of `ADD` (40_word_unit.md R106; the sum bit is general knowledge by
the spec's own mark, log 13). -/
def rippleSum (x y : Word) (i : Nat) : Bool :=
  decide (((x.getLsbD i).toNat + (y.getLsbD i).toNat + (rippleCarry x y i).toNat) % 2 = 1)

/-- `MAJ` (40_word_unit.md R108). -/
def wordMaj (x y z : Word) : Word := wordXor (wordXor (wordAnd x y) (wordAnd x z)) (wordAnd y z)

/-- `CH` (40_word_unit.md R109). -/
def wordCh (x y z : Word) : Word := wordXor (wordAnd x y) (wordAnd (wordNot x) z)

/-- `SSIG0` (40_word_unit.md R110). -/
def wordSsig0 (x : Word) : Word := wordXor (wordXor (wordRotr 7 x) (wordRotr 18 x)) (wordShr 3 x)

/-- `SSIG1` (40_word_unit.md R111). -/
def wordSsig1 (x : Word) : Word := wordXor (wordXor (wordRotr 17 x) (wordRotr 19 x)) (wordShr 10 x)

/-- `BSIG0` (40_word_unit.md R112). -/
def wordBsig0 (x : Word) : Word := wordXor (wordXor (wordRotr 2 x) (wordRotr 13 x)) (wordRotr 22 x)

/-- `BSIG1` (40_word_unit.md R113). -/
def wordBsig1 (x : Word) : Word := wordXor (wordXor (wordRotr 6 x) (wordRotr 11 x)) (wordRotr 25 x)

/-- `W` with the first sixteen words copied from a block (42_schedule.md R150). -/
def loadSchedule (block : Vector Word 16) (w : Vector Word 64) : Vector Word 64 :=
  Vector.ofFn fun t => if h : t.val < 16 then block[t.val] else w[t.val]

/-- The derived schedule word `i`, `16 <= i <= 63`, from the words below it (42_schedule.md R151). -/
def expansionWord (w : Vector Word 64) (i : Fin 64) : Word :=
  wordAdd (wordAdd (wordAdd w[i.val - 16] (wordSsig0 w[i.val - 15])) w[i.val - 7]) (wordSsig1 w[i.val - 2])

/-- `W` with the derived word `i` written (42_schedule.md R151). -/
def expandSchedule (w : Vector Word 64) (i : Fin 64) : Vector Word 64 := w.set i.val (expansionWord w i)

/-- The indices of the rounds, `0 .. 63` in increasing order (43_compression.md R166). -/
def roundIndices : List (Fin 64) := List.finRange 64

/-- The indices of the derived schedule words, `16 .. 63` in increasing order (42_schedule.md R152). -/
def expandIndices : List (Fin 64) := roundIndices.drop 16

/-- The schedule as a function of the block alone (42_schedule.md R152). The zeros stand in the entries that the
expansion writes before anything reads them. -/
def schedule (block : Vector Word 16) : Vector Word 64 :=
  expandIndices.foldl expandSchedule (loadSchedule block (Vector.replicate 64 0#32))

/-- The working registers loaded from a hash state, by position (43_compression.md R164). -/
def workOf (h : Vector Word 8) : Work :=
  { a := h[0], b := h[1], c := h[2], d := h[3], e := h[4], f := h[5], g := h[6], h := h[7] }

/-- `temp1` of a round (43_compression.md R165) with round constant `k` and schedule word `wt`. -/
def temp1 (r : Work) (k wt : Word) : Word :=
  wordAdd (wordAdd (wordAdd (wordAdd r.h (wordBsig1 r.e)) (wordCh r.e r.f r.g)) k) wt

/-- `temp2` of a round (43_compression.md R165). -/
def temp2 (r : Work) : Word := wordAdd (wordBsig0 r.a) (wordMaj r.a r.b r.c)

/-- One compression round (43_compression.md R165): every right-hand side reads the old registers. -/
def roundWork (k wt : Word) (r : Work) : Work :=
  { a := wordAdd (temp1 r k wt) (temp2 r), b := r.a, c := r.b, d := r.c,
    e := wordAdd r.d (temp1 r k wt), f := r.e, g := r.f, h := r.g }

/-- The hash state with the working registers added back, by position (43_compression.md R167). -/
def addBack (h : Vector Word 8) (r : Work) : Vector Word 8 :=
  #v[wordAdd h[0] r.a, wordAdd h[1] r.b, wordAdd h[2] r.c, wordAdd h[3] r.d,
    wordAdd h[4] r.e, wordAdd h[5] r.f, wordAdd h[6] r.g, wordAdd h[7] r.h]

/-- The block function (43_compression.md R168). -/
def blockfn (h : Vector Word 8) (block : Vector Word 16) : Vector Word 8 :=
  addBack h (roundIndices.foldl (fun r i => roundWork K[i] (schedule block)[i] r) (workOf h))

/-- The compression of a sequence of blocks from a starting state (43_compression.md R169). -/
def compress (h : Vector Word 8) (blocks : List (Vector Word 16)) : Vector Word 8 := blocks.foldl blockfn h

/-- Nibble `n` of a word, from the most significant: `x[31 - 4n : 28 - 4n]` (20_memory.md R56). -/
def nibble (x : Word) (n : Fin 8) : Fin 16 := ((x.extractLsb' (28 - 4 * n.val) 4).toFin)

/-- The character code of a digit (44_formatter.md R180). -/
def hexDigit (v : Fin 16) : Byte := HEXTAB[v]

/-- One word to eight character codes (44_formatter.md R181). -/
def hex8 (x : Word) : Vector Byte 8 := Vector.ofFn fun n => hexDigit (nibble x n)

/-- The digest string of a hash state: character `8*i + n` is digit `n` of word `i` (44_formatter.md R183). -/
def hexString (h : Vector Word 8) : Vector Byte 64 :=
  Vector.ofFn fun j => hexDigit (nibble (h[j.val / 8]'(by omega)) ⟨j.val % 8, by omega⟩)

end Sys2Proof.Machine
end

