-- ==== Sys2Proof/Machine/Flags.lean ====
section
/-! DEFINITION. The word unit has no flags (10_state.md R28). The only flag-like bits are those of `STATUS`, a view of
`MODE` and `ERRCODE` (10_state.md R29). -/

namespace Sys2Proof.Machine

/-- `STATUS.DONE`: 1 exactly when `MODE = DONE` (10_state.md R29). -/
def doneBit : Mode → BitVec 1
  | .done => 1#1
  | .load | .error => 0#1

/-- `STATUS.ERR`: 1 exactly when `MODE = ERROR` (10_state.md R29). -/
def errBit : Mode → BitVec 1
  | .error => 1#1
  | .load | .done => 0#1

/-- `STATUS.ERRCODE`: the code of the latched fault, 0 when `ERR = 0` (10_state.md R29; log 19). -/
def errField (m : Mode) (code : BitVec 4) : BitVec 4 :=
  match m with
  | .error => code
  | .load | .done => 0#4

/-- The layout of `STATUS` (10_state.md R29): bit 0 `DONE`, bit 1 `ERR`, bits 11:8 `ERRCODE`, all else 0. -/
def statusWord (m : Mode) (code : BitVec 4) : Word := 0#20 ++ errField m code ++ 0#6 ++ errBit m ++ doneBit m

/-- The status register (10_state.md R29). -/
def State.status (s : State) : Word := statusWord s.MODE s.ERRCODE

end Sys2Proof.Machine
end

