-- ==== Sys2Proof/Machine/Operands.lean ====
section
/-! DEFINITION. The operand forms (30_encoding.md R71, R72, R80): every operand is an unsigned integer taken from
contiguous bits and zero-extended. -/

namespace Sys2Proof.Machine

/-- A 6-bit index (`idx` of `RDHEX`, `IDX` of `WEXP` and `ROUND`), `0 .. 63`. -/
def index64 (i : BitVec 6) : Fin 64 := ⟨i.toNat, i.isLt⟩

/-- A 3-bit index (`idx` of `RDH`), `0 .. 7`. -/
def index8 (i : BitVec 3) : Fin 8 := ⟨i.toNat, i.isLt⟩

/-- Whether a 16-bit character code is one the engine accepts, `0 .. 255` (45_host_commands.md R192). -/
def isByteCode (code : BitVec 16) : Bool := code.toNat ≤ 255

/-- `code16[7:0]`, the byte of an accepted character code (45_host_commands.md R192). -/
def byteOfCode (code : BitVec 16) : Byte := code.extractLsb' 0 8

/-- A byte as a 32-bit response, zeros above (45_host_commands.md R197). -/
def responseOfByte (b : Byte) : Word := b.zeroExtend 32

end Sys2Proof.Machine
end

