-- ==== Sys2Proof/Machine/Padder.lean ====
section
/-! DEFINITION. The padding function (41_padder.md): at bit level with the three branches, which is normative (R130 to
R136), and at byte level, which is what `BLKFETCH` computes (R138). Both have the precondition `L < 2^64`
(93_implementation_defined.md U3): the length field is made from a 64-bit number, and a longer message gets a free value
(log 21), which no message in memory reaches (R136: `MLEN <= 2^61 - 1`). -/

namespace Sys2Proof.Machine

/-- The bits of a byte, most significant first (20_memory.md R53). -/
def bitsOfByte (b : Byte) : List Bool := (List.range 8).map fun p => b.getLsbD (7 - p)

/-- Step 1: the message as a bit sequence (41_padder.md R131). -/
def messageBits (m : List Byte) : List Bool := m.flatMap bitsOfByte

/-- `LEN64` (41_padder.md R136): the 64-bit big-endian encoding of a bit length; position `q` holds bit `63 - q`. -/
def lengthBits (l : BitVec 64) : List Bool := (List.range 64).map fun q => l.getLsbD (63 - q)

/-- The fewest zeros `k` with `(L + 1 + k) mod 512 = 448` (41_padder.md R135); one of `0 .. 511` always is. -/
def fewestZeros (l : Nat) : Nat := ((List.range 512).find? fun k => (l + 1 + k) % 512 == 448).getD 0

/-- The three branches (41_padder.md R132 to R136) for a message of `l = m.length` bits and its length field: in the
second the final 64 of 1024 bits are overwritten by the length. -/
def padBranches (m : List Bool) (l : Nat) (len64 : List Bool) : List Bool :=
  if l < 448 then m ++ [true] ++ List.replicate (447 - l) false ++ len64
  else if l ≤ 512 then (m ++ [true] ++ List.replicate (1023 - l) false).take 960 ++ len64
  else m ++ [true] ++ List.replicate (fewestZeros l) false ++ len64

/-- The padded bit sequence `pad` of a message of fewer than `2^64` bits (41_padder.md R130 to R136); a free value for a
longer one (93_implementation_defined.md U3, log 21). -/
def padBits (m : List Bool) : List Bool :=
  if m.length < 2 ^ 64 then padBranches m m.length (lengthBits (BitVec.ofNat 64 m.length))
  else Config.padOutside m

/-- The number of zeros by the one formula `(447 - L) mod 512` (41_padder.md R137). -/
def zeroCount (l : Nat) : Nat := ((447 - (l : Int)) % 512).toNat

/-- The unsigned integer whose binary numeral is the sequence read left to right (00_scope.md R12), as a word. -/
def wordOfBits (s : List Bool) : Word := s.foldl (fun acc b => acc <<< 1 ||| (if b then 1#32 else 0#32)) 0#32

/-- Block `j` of a padded bit sequence as sixteen words, word `t` being its bits `32t .. 32t + 31`, the first one
highest (41_padder.md R141, 42_schedule.md R150). -/
def blockOfBits (p : List Bool) (j : Nat) : Vector Word 16 :=
  Vector.ofFn fun t => wordOfBits ((p.drop (512 * j + 32 * t.val)).take 32)

/-- The blocks of a padded bit sequence in order (41_padder.md R130, R141). -/
def blocksOfBits (p : List Bool) : List (Vector Word 16) := (List.range (p.length / 512)).map (blockOfBits p)

/-- The number of blocks of a message of `n` bytes (41_padder.md R138). -/
def blockCount (n : Nat) : Nat := (n + 8) / 64 + 1

/-- Byte `q` of the length field, high byte first, `q <= 7` (41_padder.md R138): `l[63 - 8q : 56 - 8q]`. -/
def lengthByte (l : BitVec 64) (q : Nat) : Byte := l.extractLsb' (56 - 8 * q) 8

/-- Byte `i`, `i < 64 * NBLK`, of the padded message (41_padder.md R138), `msg` giving the `n` message bytes; a free
value where `8 * n >= 2^64` (93_implementation_defined.md U3, log 21). -/
def padByte (msg : Nat → Byte) (n i : Nat) : Byte :=
  if 8 * n < 2 ^ 64 then
    if i < n then msg i
    else if i = n then 0x80#8
    else if i < 64 * blockCount n - 8 then 0x00#8
    else lengthByte (BitVec.ofNat 64 (8 * n)) (i - (64 * blockCount n - 8))
  else Config.padByteOutside n i

/-- Four bytes as a word, the first most significant (20_memory.md R54). -/
def wordOfBytes (b0 b1 b2 b3 : Byte) : Word := b0 ++ b1 ++ b2 ++ b3

/-- Word `t` of block `j` of the padded message (41_padder.md R140). -/
def padWord (msg : Nat → Byte) (n j t : Nat) : Word :=
  wordOfBytes (padByte msg n (64 * j + 4 * t)) (padByte msg n (64 * j + 4 * t + 1))
    (padByte msg n (64 * j + 4 * t + 2)) (padByte msg n (64 * j + 4 * t + 3))

/-- Block `j` of the padded message (41_padder.md R140). -/
def padBlock (msg : Nat → Byte) (n j : Nat) : Vector Word 16 := Vector.ofFn fun t => padWord msg n j t.val

end Sys2Proof.Machine
end

