-- ==== Sys2Proof/Machine/Ops.lean ====
section
/-! DEFINITION. The shared operations: message memory, responses, fault entry, clearing, and the mode gate that every
host command passes (45_host_commands.md R190, 60_exceptions.md R216 to R218). -/

namespace Sys2Proof.Machine

/-- The byte at an index, if one has been written; an index that is not listed has no value (10_state.md R25). -/
def Mem.read : List Host.Cell → Nat → Option Byte
  | [], _ => none
  | (k, v) :: rest, a => if a = k then some v else Mem.read rest a

/-- Writes a byte, keeping the list in rising order of index with no repeats. -/
def Mem.write : List Host.Cell → Nat → Byte → List Host.Cell
  | [], a, b => [(a, b)]
  | (k, v) :: rest, a, b =>
    if a < k then (a, b) :: (k, v) :: rest
    else if a = k then (a, b) :: rest
    else (k, v) :: Mem.write rest a b

/-- The canonical form: indices strictly rise. (An unlisted index reads as no value, which no entry equals.) -/
def Mem.wf : List Host.Cell → Bool
  | [] => true
  | [_] => true
  | (k, _) :: (k', v') :: rest => decide (k < k') && Mem.wf ((k', v') :: rest)

/-- `MSG[i]` for a byte that has a value (10_state.md R25). -/
def State.msgByte (s : State) (i : Nat) : Byte := (Mem.read s.MSG i).getD (Config.unwrittenByte i)

/-- `MemRead(addr, 4)`: four bytes of `MSG` as a word, the byte at `addr` most significant (00_scope.md R13). -/
def State.memRead4 (s : State) (addr : Nat) : Word :=
  wordOfBytes (s.msgByte addr) (s.msgByte (addr + 1)) (s.msgByte (addr + 2)) (s.msgByte (addr + 3))

/-- The message `MSG[0 .. MLEN-1]`. -/
def State.message (s : State) : List Byte := (List.range s.MLEN).map s.msgByte

/-- Whether every byte `MSG[0 .. MLEN-1]` has a value (10_state.md R37 (a)). -/
def State.messageWritten (s : State) : Bool := (List.range s.MLEN).all fun i => (Mem.read s.MSG i).isSome

/-- The check before the message is read: it lies in the memory (20_memory.md R50) and all its bytes have a value
(10_state.md R25). It stops no state that a run from reset reaches (log 4, log 8). -/
def State.messageFault (s : State) : Option Fault :=
  if s.msgMax.val < s.MLEN then some .noSuchMessageByte
  else if s.messageWritten then none
  else some .unwrittenMessageByte

/-- Runs an operation that reads the message and cannot stop otherwise, after the check. -/
def State.withMessage (s : State) (op : State → State) : Host.Outcome State Fault Refusal :=
  match s.messageFault with
  | some f => .fault f
  | none => .next (op s)

/-- `MemWrite(addr, 1, v)` (00_scope.md R13). -/
def State.memWrite (s : State) (addr : Nat) (v : Byte) : State := { s with MSG := Mem.write s.MSG addr v }

/-- The command gives the response `v` (00_scope.md R13). -/
def State.respond (s : State) (v : Word) : State := { s with resp := some v }

/-- The command gives no response (00_scope.md R13). -/
def State.noResponse (s : State) : State := { s with resp := none }

/-- The names of the spec's faults (60_exceptions.md R211). -/
inductive FaultName where
  /-- A character code above 255 (R219). -/
  | invalidInputEncoding
  /-- Reserved, never raised (R213). -/
  | internalInvariantError
  /-- A word that matches no command (R212). -/
  | illegalCommand
  /-- A command the mode does not accept (R214). -/
  | sequenceError
  /-- The message memory is full (R215). -/
  | messageCapacity
  deriving DecidableEq, Repr

/-- The fault codes (60_exceptions.md R211). -/
def faultCode : FaultName → BitVec 4
  | .invalidInputEncoding => 1#4
  | .internalInvariantError => 2#4
  | .illegalCommand => 3#4
  | .sequenceError => 4#4
  | .messageCapacity => 5#4

/-- Fault entry (60_exceptions.md R216), the one operation by which a fault is taken: `MODE <- ERROR`,
`ERRCODE <- n`, nothing else changes, no response. -/
def State.raise (s : State) (f : FaultName) : State :=
  { s with MODE := .error, ERRCODE := faultCode f, resp := none }

/-- The reset state (10_state.md R35, R36): what `CLR` and `RST` leave, the way out of a latched fault
(60_exceptions.md R222). The parameter `MSG_MAX_BYTES` (70_reset_and_hazards.md R241) and the events to come stay. -/
def State.clear (s : State) : State := { State.reset with msgMax := s.msgMax, stream := s.stream }

/-- The gate of a host command that only one mode accepts (45_host_commands.md R190, 60_exceptions.md R217, R218): in
`ERROR` it is ignored, in the other mode it raises `SequenceError`, in the accepting mode it runs. -/
def State.inMode (s : State) (accepting : Mode) (run : State → Host.Outcome State Fault Refusal) :
    Host.Outcome State Fault Refusal :=
  if s.MODE = .error then .next s.noResponse
  else if s.MODE = accepting then run s
  else .next (s.raise .sequenceError)

/-- What an illegal command word does (45_host_commands.md R190, 60_exceptions.md R212, R217). -/
def State.illegalWord (s : State) : State :=
  if s.MODE = .error then s.noResponse else s.raise .illegalCommand

end Sys2Proof.Machine
end

