-- ==== Sys2Proof/Machine/Sequencer.lean ====
section
/-! DEFINITION. The eight micro-operations (30_encoding.md R80) and the order in which `HASH` performs them
(45_host_commands.md R194). No micro-operation faults in the spec's sense (60_exceptions.md R210). -/

namespace Sys2Proof.Machine

/-- `HINIT` (43_compression.md R163). -/
def State.hinit (s : State) : State := { s with H := IV, BLK := 0, NBLK := blockCount s.MLEN }

/-- The precondition of `BLKFETCH`, "guaranteed by the sequencer" (41_padder.md R140). -/
def State.fetchReady (s : State) : Bool := decide (s.BLK < s.NBLK) && decide (s.NBLK = blockCount s.MLEN)

/-- The block that `BLKFETCH` delivers: block `BLK` of the padded message; outside the precondition a free value in
each word (log 7). -/
def State.fetchedBlock (s : State) : Vector Word 16 :=
  if s.fetchReady then padBlock s.msgByte s.MLEN s.BLK
  else Vector.ofFn fun t => Config.fetchedOutside s.MSG s.MLEN s.BLK s.NBLK t.val

/-- `BLKFETCH` (41_padder.md R140). -/
def State.blkfetch (s : State) : State := { s with BLKBUF := s.fetchedBlock, BLK := s.BLK + 1 }

/-- `WLOAD` (42_schedule.md R150). -/
def State.wload (s : State) : State := { s with W := loadSchedule s.BLKBUF s.W, T := 16 }

/-- `WEXP i`, `16 <= i` (42_schedule.md R151). -/
def State.wexp (s : State) (i : Fin 64) : State := { s with W := expandSchedule s.W i, T := i.val + 1 }

/-- `RINIT` (43_compression.md R164). -/
def State.rinit (s : State) : State := { s with work := workOf s.H, T := 0 }

/-- `ROUND i` (43_compression.md R165). -/
def State.round (s : State) (i : Fin 64) : State :=
  { s with work := roundWork K[i] s.W[i] s.work, T := i.val + 1 }

/-- `HADD` (43_compression.md R167). -/
def State.hadd (s : State) : State := { s with H := addBack s.H s.work }

/-- `HEXFMT` (44_formatter.md R183). -/
def State.hexfmt (s : State) : State := { s with DIGEST := hexString s.H }

/-- One iteration of the block loop of `HASH` (45_host_commands.md R194). -/
def State.hashBlock (s : State) : State :=
  let loaded := s.blkfetch.wload
  let expanded := expandIndices.foldl State.wexp loaded
  let rounded := roundIndices.foldl State.round expanded.rinit
  rounded.hadd

/-- `n` iterations of the block loop (30_encoding.md R80: "repeat NBLK times"). -/
def State.hashBlocks : Nat → State → State
  | 0, s => s
  | n + 1, s => State.hashBlocks n s.hashBlock

/-- The micro-operations of `HASH` from `HINIT` to `HEXFMT` (45_host_commands.md R194). -/
def State.hashRun (s : State) : State :=
  (State.hashBlocks s.hinit.NBLK s.hinit).hexfmt

/-- The instructions the sequencer issues for one block, in order (30_encoding.md R80). -/
def blockTrace : List Instr :=
  [.blkfetch, .wload] ++ expandIndices.map (fun i => .wexp (BitVec.ofNat 6 i.val)) ++ [.rinit]
    ++ roundIndices.map (fun i => .round (BitVec.ofNat 6 i.val)) ++ [.hadd]

/-- The instructions the sequencer issues for one `HASH` of `n` blocks, in order (30_encoding.md R80). -/
def microTrace (n : Nat) : List Instr := [.hinit] ++ (List.replicate n blockTrace).flatten ++ [.hexfmt]

/-- Meaning of the micro-operation `HINIT` (43_compression.md R163). -/
def execHinit (s : State) : Host.Outcome State Fault Refusal := .next s.hinit

/-- Meaning of the micro-operation `BLKFETCH` (41_padder.md R140). -/
def execBlkfetch (s : State) : Host.Outcome State Fault Refusal := s.withMessage State.blkfetch

/-- Meaning of the micro-operation `WLOAD` (42_schedule.md R150). -/
def execWload (s : State) : Host.Outcome State Fault Refusal := .next s.wload

/-- Meaning of the micro-operation `WEXP i` (42_schedule.md R151); `i < 16` names no operation (30_encoding.md R80). -/
def execWexp (i : BitVec 6) (s : State) : Host.Outcome State Fault Refusal :=
  if 16 ≤ i.toNat then .next (s.wexp (index64 i)) else .refused (.reservedMicroOp (3#3 ++ i))

/-- Meaning of the micro-operation `RINIT` (43_compression.md R164). -/
def execRinit (s : State) : Host.Outcome State Fault Refusal := .next s.rinit

/-- Meaning of the micro-operation `ROUND i` (43_compression.md R165). -/
def execRound (i : BitVec 6) (s : State) : Host.Outcome State Fault Refusal := .next (s.round (index64 i))

/-- Meaning of the micro-operation `HADD` (43_compression.md R167). -/
def execHadd (s : State) : Host.Outcome State Fault Refusal := .next s.hadd

/-- Meaning of the micro-operation `HEXFMT` (44_formatter.md R183). -/
def execHexfmt (s : State) : Host.Outcome State Fault Refusal := .next s.hexfmt

end Sys2Proof.Machine
end

