-- ==== Sys2Proof/Machine/Commands.lean ====
section
/-! DEFINITION. The six host commands (45_host_commands.md). -/

namespace Sys2Proof.Machine

/-- `CLR` (45_host_commands.md R191): the reset state, in every mode; no response. -/
def execClr (s : State) : Host.Outcome State Fault Refusal := .next s.clear

/-- The append of `PUSH`: `MemWrite(MLEN, 1, code16[7:0])`, `MLEN <- MLEN + 1` (45_host_commands.md R192). -/
def State.append (s : State) (code : BitVec 16) : State :=
  { s.memWrite s.MLEN (byteOfCode code) with MLEN := s.MLEN + 1, resp := none }

/-- `PUSH code16` in mode `LOAD` (45_host_commands.md R192), its checks in the order of 60_exceptions.md R218. An index
beyond the memory, which no run from reset reaches, stops (log 8). -/
def State.pushLoad (code : BitVec 16) (s : State) : Host.Outcome State Fault Refusal :=
  if isByteCode code = false then .next (s.raise .invalidInputEncoding)
  else if s.MLEN = s.msgMax.val then .next (s.raise .messageCapacity)
  else if s.msgMax.val < s.MLEN then .fault .noSuchMessageByte
  else .next (s.append code)

/-- `PUSH code16` (45_host_commands.md R192). -/
def execPush (code : BitVec 16) (s : State) : Host.Outcome State Fault Refusal := s.inMode .load (State.pushLoad code)

/-- What `HASH` leaves in mode `LOAD` (45_host_commands.md R194). -/
def State.hashed (s : State) : State := { s.hashRun with MODE := .done, resp := none }

/-- `HASH` (45_host_commands.md R194). -/
def execHash (s : State) : Host.Outcome State Fault Refusal :=
  s.inMode .load fun s => s.withMessage State.hashed

/-- `RDHEX idx` (45_host_commands.md R197). -/
def execRdhex (idx : BitVec 6) (s : State) : Host.Outcome State Fault Refusal :=
  s.inMode .done fun s => .next (s.respond (responseOfByte s.DIGEST[index64 idx]))

/-- `RDH idx` (45_host_commands.md R198). -/
def execRdh (idx : BitVec 3) (s : State) : Host.Outcome State Fault Refusal :=
  s.inMode .done fun s => .next (s.respond s.H[index8 idx])

/-- `RDSTAT` (45_host_commands.md R199): accepted in every mode. -/
def execRdstat (s : State) : Host.Outcome State Fault Refusal := .next (s.respond s.status)

end Sys2Proof.Machine
end

