-- ==== Sys2Proof/Machine/WordUnit.lean ====
section
/-! DEFINITION. The word-unit functions as instructions of the bench (30_encoding.md R78, log 6): the operands are on
the ports `X`, `Y`, `Z`, the result appears on `R`, nothing else changes and there is no flag. -/

namespace Sys2Proof.Machine

/-- The state with a result on the word unit's port `R`. -/
def State.result (s : State) (r : Word) : State := { s with wu := { s.wu with r := r } }

/-- Meaning of `AND` (40_word_unit.md R101). -/
def execAnd (s : State) : Host.Outcome State Fault Refusal := .next (s.result (wordAnd s.wu.x s.wu.y))

/-- Meaning of `NOT` (40_word_unit.md R102). -/
def execNot (s : State) : Host.Outcome State Fault Refusal := .next (s.result (wordNot s.wu.x))

/-- Meaning of `XOR` (40_word_unit.md R103). -/
def execXor (s : State) : Host.Outcome State Fault Refusal := .next (s.result (wordXor s.wu.x s.wu.y))

/-- Meaning of `ROTR n` (40_word_unit.md R104). -/
def execRotr (n : BitVec 5) (s : State) : Host.Outcome State Fault Refusal := .next (s.result (wordRotr n s.wu.x))

/-- Meaning of `SHR n` (40_word_unit.md R105). -/
def execShr (n : BitVec 5) (s : State) : Host.Outcome State Fault Refusal := .next (s.result (wordShr n s.wu.x))

/-- Meaning of `ADD` (40_word_unit.md R106). -/
def execAdd (s : State) : Host.Outcome State Fault Refusal := .next (s.result (wordAdd s.wu.x s.wu.y))

/-- Meaning of `MAJ` (40_word_unit.md R108). -/
def execMaj (s : State) : Host.Outcome State Fault Refusal := .next (s.result (wordMaj s.wu.x s.wu.y s.wu.z))

/-- Meaning of `SSIG0` (40_word_unit.md R110). -/
def execSsig0 (s : State) : Host.Outcome State Fault Refusal := .next (s.result (wordSsig0 s.wu.x))

/-- Meaning of `SSIG1` (40_word_unit.md R111). -/
def execSsig1 (s : State) : Host.Outcome State Fault Refusal := .next (s.result (wordSsig1 s.wu.x))

/-- Meaning of `BSIG0` (40_word_unit.md R112). -/
def execBsig0 (s : State) : Host.Outcome State Fault Refusal := .next (s.result (wordBsig0 s.wu.x))

/-- Meaning of `BSIG1` (40_word_unit.md R113). -/
def execBsig1 (s : State) : Host.Outcome State Fault Refusal := .next (s.result (wordBsig1 s.wu.x))

/-- Meaning of `CH` (40_word_unit.md R109). -/
def execCh (s : State) : Host.Outcome State Fault Refusal := .next (s.result (wordCh s.wu.x s.wu.y s.wu.z))

end Sys2Proof.Machine
end

