-- ==== Sys2Proof/Machine/Dispatch.lean ====
section
/-! DEFINITION. The meaning of each instruction, one arm per constructor of `Instr`. -/

namespace Sys2Proof.Machine

def exec (i : Instr) (s : State) : Host.Outcome State Fault Refusal :=
  match i with
  -- host commands (45_host_commands.md)
  | .clr => Sys2Proof.Machine.execClr s
  | .push code => Sys2Proof.Machine.execPush code s
  | .hash => Sys2Proof.Machine.execHash s
  | .rdhex idx => Sys2Proof.Machine.execRdhex idx s
  | .rdh idx => Sys2Proof.Machine.execRdh idx s
  | .rdstat => Sys2Proof.Machine.execRdstat s
  -- micro-operations (30_encoding.md R80)
  | .hinit => Sys2Proof.Machine.execHinit s
  | .blkfetch => Sys2Proof.Machine.execBlkfetch s
  | .wload => Sys2Proof.Machine.execWload s
  | .wexp k => Sys2Proof.Machine.execWexp k s
  | .rinit => Sys2Proof.Machine.execRinit s
  | .round k => Sys2Proof.Machine.execRound k s
  | .hadd => Sys2Proof.Machine.execHadd s
  | .hexfmt => Sys2Proof.Machine.execHexfmt s
  -- word-unit functions (40_word_unit.md)
  | .and => Sys2Proof.Machine.execAnd s
  | .not => Sys2Proof.Machine.execNot s
  | .xor => Sys2Proof.Machine.execXor s
  | .rotr n => Sys2Proof.Machine.execRotr n s
  | .shr n => Sys2Proof.Machine.execShr n s
  | .add => Sys2Proof.Machine.execAdd s
  | .maj => Sys2Proof.Machine.execMaj s
  | .ssig0 => Sys2Proof.Machine.execSsig0 s
  | .ssig1 => Sys2Proof.Machine.execSsig1 s
  | .bsig0 => Sys2Proof.Machine.execBsig0 s
  | .bsig1 => Sys2Proof.Machine.execBsig1 s
  | .ch => Sys2Proof.Machine.execCh s

end Sys2Proof.Machine
end

