-- ==== Sys2Proof/Machine/Issue.lean ====
section
/-! DEFINITION. What one event does to the machine (45_host_commands.md R190, 70_reset_and_hazards.md R240), and the
event that carries a row of the opcode table. -/

namespace Sys2Proof.Machine

/-- A host command word: the decoded command, or what an illegal word does (45_host_commands.md R190). -/
def issueCmd (w : BitVec 32) (s : State) : Host.Outcome State Fault Refusal :=
  match decodeCmd w with
  | .ok i => exec i s
  | .error _ => .next s.illegalWord

/-- A `SEQ9` word on the bench: the micro-operation, or a refusal (93_implementation_defined.md U6). -/
def issueSeq (w : BitVec 9) (s : State) : Host.Outcome State Fault Refusal :=
  match decodeSeq w with
  | .ok i => exec i s
  | .error _ => .refused (.reservedMicroOp w)

/-- A `WU9` word on the bench: the function, or a refusal (93_implementation_defined.md U6). -/
def issueWu (w : BitVec 9) (s : State) : Host.Outcome State Fault Refusal :=
  match decodeWu w with
  | .ok i => exec i s
  | .error _ => .refused (.reservedFunction w)

/-- Operands driven onto the word unit's inputs (30_encoding.md R78). -/
def State.drive (s : State) (x y z : Word) : State := { s with wu := { s.wu with x := x, y := y, z := z } }

/-- One event, taken to completion (00_scope.md R9). -/
def issue (e : Event) (s : State) : Host.Outcome State Fault Refusal :=
  match e with
  | .rst => .next s.clear
  | .cmd w => issueCmd w s
  | .seq w => issueSeq w s
  | .wu w x y z => issueWu w (s.drive x y z)

/-- The state in which an event is performed: it is taken off the stream, and no response has been given yet. -/
def State.take (s : State) (rest : List Event) : State := { s with stream := rest, resp := none }

/-- One step: the next event of the stream; with none to come the engine "does nothing until the first command
arrives" (70_reset_and_hazards.md R241; log 1). -/
def stepEvent (s : State) : Host.Outcome State Fault Refusal :=
  match s.stream with
  | [] => .next s
  | e :: rest => issue e (s.take rest)

/-- The event that issues a control word; a word-unit word finds the operands already on the ports. -/
def State.eventOf (s : State) : ControlWord → Event
  | .cmd w => .cmd w
  | .seq w => .seq w
  | .wu w => .wu w s.wu.x s.wu.y s.wu.z

/-- The state whose next event is the control word. -/
def State.place (s : State) (c : ControlWord) : State := { s with stream := s.eventOf c :: s.stream }

end Sys2Proof.Machine
end

