-- ==== Sys2Proof/Machine/Step.lean ====
section
/-! DEFINITION. The machine's step, and where a row of the opcode table is placed for the next step to run it. -/

namespace Sys2Proof.Machine

/-- One step of the machine (00_scope.md R9). -/
def step (s : State) : Host.Outcome State Fault Refusal := stepEvent s

/-- The state whose next event is the opcode-table word with the bits `w` (of a row of `nbits` bits). -/
def State.withFetchWord (s : State) (nbits w : Nat) : State := s.place (tableWord nbits w)

end Sys2Proof.Machine
end

