-- ==== Sys2Proof/Machine/Assembler.lean ====
section
/-! DEFINITION. Assembler syntax and pseudo-instructions (30_encoding.md R82, R83). A source line is a list of
characters. Log 20 names what R82 leaves open. -/

namespace Sys2Proof.Machine

/-- `RDDIGEST` (30_encoding.md R83). -/
def rddigest : List Instr := (List.range 64).map fun i => .rdhex (BitVec.ofNat 6 i)

/-- `PUSHS` of a sequence of character codes (30_encoding.md R83). -/
def pushs (codes : List (BitVec 16)) : List Instr := codes.map .push

/-- `SHA256` of a sequence of character codes (30_encoding.md R83). -/
def sha256Commands (codes : List (BitVec 16)) : List Instr := [.clr] ++ pushs codes ++ [.hash] ++ rddigest

/-- The host's events for a sequence of host commands; other instructions are not host commands and give none. -/
def hostEvents (is : List Instr) : List Event :=
  is.filterMap fun i => match encode i with
    | .cmd w => some (.cmd w)
    | .seq _ | .wu _ => none

/-- Whether a character separates the parts of a line. -/
def isBlank (c : Char) : Bool := c == ' ' || c == '\t'

/-- The apostrophe that encloses a character operand. -/
def apostrophe : Char := Char.ofNat 39

/-- The quotation mark that encloses the text of a pseudo-instruction. -/
def quotationMark : Char := Char.ofNat 34

/-- The value of a digit in a base of at most 16. -/
def digitValue (base : Nat) (c : Char) : Option Nat :=
  let n := c.toNat
  let v :=
    if 48 ≤ n ∧ n ≤ 57 then n - 48
    else if 97 ≤ n ∧ n ≤ 102 then n - 87
    else if 65 ≤ n ∧ n ≤ 70 then n - 55
    else 16
  if v < base then some v else none

/-- The value of a non-empty sequence of digits. -/
def numeral (base : Nat) : List Char → Option Nat
  | [] => none
  | cs => cs.foldl (fun acc c => match acc, digitValue base c with
      | some a, some d => some (base * a + d)
      | _, _ => none) (some 0)

/-- A decimal number or a `0x` hexadecimal number (30_encoding.md R82). -/
def number : List Char → Option Nat
  | '0' :: 'x' :: digits => numeral 16 digits
  | digits => numeral 10 digits

/-- Whether nothing but blanks and a comment follows (30_encoding.md R82: `;` starts a comment). -/
def isRestEmpty (cs : List Char) : Bool :=
  match cs.dropWhile isBlank with
  | [] => true
  | c :: _ => c == ';'

/-- The first word of a text: up to a blank or a comment, and what follows it. -/
def splitWord (cs : List Char) : List Char × List Char := cs.span fun c => !(isBlank c || c == ';')

/-- A character code of 16 bits, if the number is one. -/
def code16 (n : Nat) : Option (BitVec 16) := if n < 2 ^ 16 then some (BitVec.ofNat 16 n) else none

/-- The character codes of a text (30_encoding.md R83). -/
def codesOf (text : List Char) : Option (List (BitVec 16)) := text.mapM fun c => code16 c.toNat

/-- A line whose mnemonic takes no operand: the host commands, the micro-operations of a trace, `RDDIGEST`. -/
def plainLine (name : List Char) : Option (List Instr) :=
  if name = ['C', 'L', 'R'] then some [.clr]
  else if name = ['H', 'A', 'S', 'H'] then some [.hash]
  else if name = ['R', 'D', 'S', 'T', 'A', 'T'] then some [.rdstat]
  else if name = ['R', 'D', 'D', 'I', 'G', 'E', 'S', 'T'] then some rddigest
  else if name = ['H', 'I', 'N', 'I', 'T'] then some [.hinit]
  else if name = ['B', 'L', 'K', 'F', 'E', 'T', 'C', 'H'] then some [.blkfetch]
  else if name = ['W', 'L', 'O', 'A', 'D'] then some [.wload]
  else if name = ['R', 'I', 'N', 'I', 'T'] then some [.rinit]
  else if name = ['H', 'A', 'D', 'D'] then some [.hadd]
  else if name = ['H', 'E', 'X', 'F', 'M', 'T'] then some [.hexfmt]
  else none

/-- A line whose mnemonic takes a number: the host commands and the micro-operations of a trace. -/
def numberLine (name : List Char) (n : Nat) : Option (List Instr) :=
  if name = ['P', 'U', 'S', 'H'] ∧ n < 2 ^ 16 then some [.push (BitVec.ofNat 16 n)]
  else if name = ['R', 'D', 'H', 'E', 'X'] ∧ n < 64 then some [.rdhex (BitVec.ofNat 6 n)]
  else if name = ['R', 'D', 'H'] ∧ n < 8 then some [.rdh (BitVec.ofNat 3 n)]
  else if name = ['W', 'E', 'X', 'P'] ∧ 16 ≤ n ∧ n < 64 then some [.wexp (BitVec.ofNat 6 n)]
  else if name = ['R', 'O', 'U', 'N', 'D'] ∧ n < 64 then some [.round (BitVec.ofNat 6 n)]
  else none

/-- A line whose pseudo-instruction takes a text (30_encoding.md R83). -/
def textLine (name text : List Char) : Option (List Instr) :=
  if name = ['P', 'U', 'S', 'H', 'S'] then (codesOf text).map pushs
  else if name = ['S', 'H', 'A', '2', '5', '6'] then (codesOf text).map sha256Commands
  else none

/-- The part of a line after its mnemonic. -/
def operandLine (name rest : List Char) : Option (List Instr) :=
  match rest.dropWhile isBlank with
  | [] => plainLine name
  | c :: cs =>
    if c = ';' then plainLine name
    else if c = apostrophe then
      match cs with
      | x :: q :: tail => if q = apostrophe ∧ isRestEmpty tail = true then numberLine name x.toNat else none
      | _ => none
    else if c = quotationMark then
      let (text, tail) := cs.span fun x => x != quotationMark
      match tail with
      | [] => none
      | _ :: tail => if isRestEmpty tail = true then textLine name text else none
    else
      let (word, tail) := splitWord (c :: cs)
      if isRestEmpty tail = true then (number word).bind (numberLine name) else none

/-- One source line: the instructions it stands for, none of them for an empty line; `none` if it is no line of the
syntax (30_encoding.md R82). -/
def assembleLine (line : List Char) : Option (List Instr) :=
  if isRestEmpty line = true then some []
  else
    let (name, rest) := splitWord (line.dropWhile isBlank)
    operandLine name rest

/-- A source text, line by line (30_encoding.md R82). -/
def assemble (lines : List (List Char)) : Option (List Instr) := (lines.mapM assembleLine).map List.flatten

end Sys2Proof.Machine
end

