-- ==== Sys2Proof/Machine/Digest.lean ====
section
/-! DEFINITION. The one function the hardware computes (00_scope.md R2), composed from the bit-level padding and the
compression (41_padder.md R130, 43_compression.md R169, 45_host_commands.md R195). -/

namespace Sys2Proof.Machine

/-- The digest state of a message: `compress(IV, pad(message))` (43_compression.md R169). -/
def digestState (m : List Byte) : Vector Word 8 := compress IV (blocksOfBits (padBits (messageBits m)))

/-- `sha256`: the 64 character codes of the digest of a message (45_host_commands.md R195). -/
def sha256 (m : List Byte) : Vector Byte 64 := hexString (digestState m)

end Sys2Proof.Machine
end

