-- ==== Sys2Proof/Safety.lean ====
section
/-! DEFINITION. What holds in every state a run reaches (10_state.md R37), and runs with their responses: the terms in
which claims are stated. -/

namespace Sys2Proof

open Sys2Proof.Machine

/-- The message memory (10_state.md R37 (a)): in canonical form, exactly the bytes below `MLEN` have a value, and
`MLEN <= MSG_MAX_BYTES`. -/
def MessageInv (s : State) : Prop :=
  Mem.wf s.MSG = true ∧ (∀ a, (Mem.read s.MSG a).isSome = decide (a < s.MLEN)) ∧ s.MLEN ≤ s.msgMax.val

/-- The latched fault code (10_state.md R37 (c), (d)): 0 outside mode `ERROR`, one of 1, 3, 4, 5 in it. -/
def StatusInv (s : State) : Prop :=
  (s.MODE ≠ .error → s.ERRCODE = 0#4) ∧
  (s.MODE = .error → s.ERRCODE = 1#4 ∨ s.ERRCODE = 3#4 ∨ s.ERRCODE = 4#4 ∨ s.ERRCODE = 5#4)

/-- The counter `T` lies in `0 .. 64` (10_state.md R27). -/
def CounterInv (s : State) : Prop := s.T ≤ 64

/-- What holds along every run, bench events among them. -/
def EngineInv (s : State) : Prop := MessageInv s ∧ StatusInv s ∧ CounterInv s

/-- In mode `DONE`, `H` is the digest state of the message and `DIGEST` its rendering (10_state.md R37 (b)). -/
def DigestInv (s : State) : Prop :=
  s.MODE = .done → s.H = digestState s.message ∧ s.DIGEST = hexString s.H

/-- An event the host of the spec can cause: a command word or `RST` (00_scope.md R8). -/
def isHostEvent : Event → Bool
  | .rst | .cmd _ => true
  | .seq _ | .wu _ _ _ _ => false

/-- All events to come are the host's: no control word is put on the model's bench (log 6). -/
def HostDriven (s : State) : Prop := ∀ e ∈ s.stream, isHostEvent e = true

/-- What holds in every state that the spec's host can reach (10_state.md R37). -/
def HostInv (s : State) : Prop := EngineInv s ∧ DigestInv s ∧ HostDriven s

/-- The message can be read: it lies in the memory and each of its bytes has a value. -/
def MessageReadable (s : State) : Prop :=
  s.MLEN ≤ s.msgMax.val ∧ ∀ i, i < s.MLEN → (Mem.read s.MSG i).isSome = true

/-- `k` steps, with the response of each; `none` if the machine stops on the way. -/
def runResponses : Nat → State → Option (State × List (Option Word))
  | 0, s => some (s, [])
  | k + 1, s =>
    match step s with
    | .next t => (runResponses k t).map fun p => (p.1, t.resp :: p.2)
    | .fault _ | .refused _ => none

/-- A list of instructions executed one after the other; stops at the first that gives no next state. -/
def execAll : List Instr → State → Host.Outcome State Fault Refusal
  | [], s => .next s
  | i :: is, s =>
    match exec i s with
    | .next t => execAll is t
    | .fault f => .fault f
    | .refused r => .refused r

end Sys2Proof
end

