-- ==== Sys2Proof/Certificates/Slice0/Obligations.lean ====
section
/-! DEFINITION. The statements for the provers. Each docstring names the rule of spec/ it formalises.
Wherever a next state is written as the old one with some fields changed, that the word unit's ports, the response and
the stream are as stated there is the model's choice (log 6, log 2, log 1), since the spec has no such state. -/

open Sys2Proof Sys2Proof.Machine

/-! ### Encoding -/

/-- Every well-formed instruction, at each of the three levels and with every operand its encoding admits, is read back
from its word (30_encoding.md sections 3, 5, 6). -/
def Obligations.DecodeOfEncode : Prop :=
  ∀ i : Instr, i.wf = true → decode (encode i) = .ok i

/-- A word that decodes is the word of the instruction it decodes to, and that instruction is well-formed: no word has
two readings at one level, and no reserved word falls to a neighbour (30_encoding.md sections 3, 5, 6). -/
def Obligations.EncodeOfDecode : Prop :=
  ∀ (c : ControlWord) (i : Instr), decode c = .ok i → i.wf = true ∧ encode i = c

/-- 30_encoding.md R75: decoding of host command words is the seven-way function, and encoding its inverse. -/
def Obligations.HostDecodeIsSevenWay : Prop :=
  (∀ w : BitVec 32,
    (decodeCmd w = .ok .clr ↔ field w 24 8 = 0x01#8 ∧ field w 0 24 = 0#24) ∧
    (∀ c, decodeCmd w = .ok (.push c) ↔ field w 24 8 = 0x02#8 ∧ field w 16 8 = 0#8 ∧ c = field w 0 16) ∧
    (decodeCmd w = .ok .hash ↔ field w 24 8 = 0x03#8 ∧ field w 0 24 = 0#24) ∧
    (∀ i, decodeCmd w = .ok (.rdhex i) ↔ field w 24 8 = 0x04#8 ∧ field w 6 18 = 0#18 ∧ i = field w 0 6) ∧
    (∀ i, decodeCmd w = .ok (.rdh i) ↔ field w 24 8 = 0x05#8 ∧ field w 3 21 = 0#21 ∧ i = field w 0 3) ∧
    (decodeCmd w = .ok .rdstat ↔ field w 24 8 = 0x06#8 ∧ field w 0 24 = 0#24) ∧
    (decodeCmd w = .error (.illegalCommand w) ↔
      ¬(field w 24 8 = 0x01#8 ∧ field w 0 24 = 0#24) ∧ ¬(field w 24 8 = 0x02#8 ∧ field w 16 8 = 0#8) ∧
      ¬(field w 24 8 = 0x03#8 ∧ field w 0 24 = 0#24) ∧ ¬(field w 24 8 = 0x04#8 ∧ field w 6 18 = 0#18) ∧
      ¬(field w 24 8 = 0x05#8 ∧ field w 3 21 = 0#21) ∧ ¬(field w 24 8 = 0x06#8 ∧ field w 0 24 = 0#24)) ∧
    (∀ i, decodeCmd w = .ok i → i.level = .hostCommand ∧ encode i = .cmd w)) ∧
  (∀ i : Instr, i.level = .hostCommand → decode (encode i) = .ok i) ∧
  encode .clr = .cmd 0x01000000 ∧ encode .hash = .cmd 0x03000000 ∧ encode .rdstat = .cmd 0x06000000 ∧
  (∀ c, encode (.push c) = .cmd (0x02000000 + c.zeroExtend 32)) ∧
  (∀ i, encode (.rdhex i) = .cmd (0x04000000 + i.zeroExtend 32)) ∧
  (∀ i, encode (.rdh i) = .cmd (0x05000000 + i.zeroExtend 32))

/-- 30_encoding.md R73: a word is a command exactly when `cmd & mask = match`, and the six patterns are disjoint; the
all-zero word is no command. -/
def Obligations.HostCommandMatchAndMask : Prop :=
  (∀ w : BitVec 32,
    (decodeCmd w = .ok .clr ↔ w &&& 0xFFFFFFFF = 0x01000000) ∧
    ((∃ c, decodeCmd w = .ok (.push c)) ↔ w &&& 0xFFFF0000 = 0x02000000) ∧
    (decodeCmd w = .ok .hash ↔ w &&& 0xFFFFFFFF = 0x03000000) ∧
    ((∃ i, decodeCmd w = .ok (.rdhex i)) ↔ w &&& 0xFFFFFFC0 = 0x04000000) ∧
    ((∃ i, decodeCmd w = .ok (.rdh i)) ↔ w &&& 0xFFFFFFF8 = 0x05000000) ∧
    (decodeCmd w = .ok .rdstat ↔ w &&& 0xFFFFFFFF = 0x06000000)) ∧
  (∀ i j : Instr, i.level = .hostCommand → j.level = .hostCommand → ∀ w : BitVec 32,
    (ControlWord.cmd w).inRowOf i = true → (ControlWord.cmd w).inRowOf j = true → tableRow i = tableRow j) ∧
  decodeCmd 0 = .error (.illegalCommand 0)

/-- 30_encoding.md R74 and 60_exceptions.md R212: which words are illegal, and what executing one does. -/
def Obligations.IllegalWordsFault : Prop :=
  ∀ (w : BitVec 32) (s : State),
    ((∃ e, decodeCmd w = .error e) ↔
      field w 24 8 = 0x00#8 ∨ 0x07 ≤ (field w 24 8).toNat ∨
      ((field w 24 8 = 0x01#8 ∨ field w 24 8 = 0x03#8 ∨ field w 24 8 = 0x06#8) ∧ field w 0 24 ≠ 0#24) ∨
      (field w 24 8 = 0x02#8 ∧ field w 16 8 ≠ 0#8) ∨ (field w 24 8 = 0x04#8 ∧ field w 6 18 ≠ 0#18) ∨
      (field w 24 8 = 0x05#8 ∧ field w 3 21 ≠ 0#21)) ∧
    ((∃ e, decodeCmd w = .error e) →
      issueCmd w s =
        if s.MODE = .error then .next { s with resp := none }
        else .next { s with MODE := .error, ERRCODE := 3#4, resp := none })

/-- Words written out from the spec's tables decode to what they stand for (30_encoding.md sections 3, 5, 6 and
95_test_vectors.md section 2.6). -/
def Obligations.SpecWordsDecode : Prop :=
  decodeCmd 0x02000061 = .ok (.push 0x0061) ∧ decodeCmd 0x0400003F = .ok (.rdhex 63) ∧
  decodeCmd 0x05000007 = .ok (.rdh 7) ∧ decodeCmd 0x06000000 = .ok .rdstat ∧
  decodeSeq 0b011010000 = .ok (.wexp 16) ∧ decodeSeq 0b101111111 = .ok (.round 63) ∧
  decodeSeq 0b111000000 = .ok .hexfmt ∧ decodeWu 0b001110010 = .ok (.rotr 18) ∧
  decodeWu 0b010001010 = .ok (.shr 10) ∧ decodeWu 0b110000000 = .ok .ch

/-- A step takes the next event; a control word that decodes is executed in the state without that event, and a word
for the word unit finds its operands driven onto the ports (00_scope.md R9; the stream is the model's, log 1, log 6). -/
def Obligations.StepRunsDecodedInstruction : Prop :=
  ∀ (s : State) (rest : List Event),
    (∀ w i, decodeCmd w = .ok i → s.stream = .cmd w :: rest →
      step s = exec i { s with stream := rest, resp := none }) ∧
    (∀ w i, decodeSeq w = .ok i → s.stream = .seq w :: rest →
      step s = exec i { s with stream := rest, resp := none }) ∧
    (∀ w x y z i, decodeWu w = .ok i → s.stream = .wu w x y z :: rest →
      step s = exec i { s with stream := rest, resp := none, wu := { x := x, y := y, z := z, r := s.wu.r } }) ∧
    (s.stream = .rst :: rest → step s = .next { State.reset with msgMax := s.msgMax, stream := rest }) ∧
    (s.stream = [] → step s = .next s)

/-- A control word of the bench that names no operation is refused, and `WEXP i` with `i < 16` with it
(93_implementation_defined.md U6). -/
def Obligations.ReservedControlWordsRefused : Prop :=
  ∀ (s : State),
    (∀ w e, decodeSeq w = .error e → issueSeq w s = .refused (.reservedMicroOp w)) ∧
    (∀ w e, decodeWu w = .error e → issueWu w s = .refused (.reservedFunction w)) ∧
    (∀ i : BitVec 6, i.toNat < 16 →
      exec (.wexp i) s = .refused (.reservedMicroOp (3#3 ++ i)) ∧ ∃ e, decodeSeq (3#3 ++ i) = .error e)

/-! ### The word unit -/

/-- 40_word_unit.md R101, R102 and R103: the three bitwise functions. -/
def Obligations.BitwiseFunctions : Prop :=
  ((∀ s : State, ∃ r : Word, exec .and s = .next { s with wu := { s.wu with r := r } } ∧ r = s.wu.x &&& s.wu.y ∧
      ∀ i, i < 32 → r.getLsbD i = (s.wu.x.getLsbD i && s.wu.y.getLsbD i)) ∧
    encode .and = packWu 0 0 ∧
    (∀ x : Word, wordAnd x 0 = 0 ∧ wordAnd x 0xFFFFFFFF = x ∧ wordAnd x x = x) ∧
    wordAnd 0xF0F0F0F0 0xFF00FF00 = 0xF000F000) ∧
  ((∀ s : State, ∃ r : Word, exec .not s = .next { s with wu := { s.wu with r := r } } ∧
      r.toNat = 0xFFFFFFFF - s.wu.x.toNat ∧ ∀ i, i < 32 → r.getLsbD i = !s.wu.x.getLsbD i) ∧
    encode .not = packWu 1 0 ∧
    wordNot 0 = 0xFFFFFFFF ∧ wordNot 0xFFFFFFFF = 0 ∧ (∀ x, wordNot (wordNot x) = x) ∧
    wordNot 0x6A09E667 = 0x95F61998) ∧
  ((∀ s : State, ∃ r : Word, exec .xor s = .next { s with wu := { s.wu with r := r } } ∧
      ∀ i, i < 32 →
        (r.getLsbD i).toNat = ((s.wu.x.getLsbD i).toNat + (s.wu.y.getLsbD i).toNat) % 2) ∧
    encode .xor = packWu 2 0 ∧
    (∀ x y z : Word, wordXor x x = 0 ∧ wordXor x 0 = x ∧ wordXor x 0xFFFFFFFF = wordNot x ∧
      wordXor x y = wordXor y x ∧ wordXor (wordXor x y) z = wordXor x (wordXor y z)) ∧
    wordXor 0xF0F0F0F0 0xFF00FF00 = 0x0FF00FF0)

/-- 40_word_unit.md R104. -/
def Obligations.RotrRotates : Prop :=
  (∀ (s : State) (n : BitVec 5), ∃ r : Word, exec (.rotr n) s = .next { s with wu := { s.wu with r := r } } ∧
    (n = 0 → r = s.wu.x) ∧
    (1 ≤ n.toNat → r = (s.wu.x >>> n.toNat) ||| (s.wu.x <<< (32 - n.toNat))) ∧
    ∀ i, i < 32 → r.getLsbD i = s.wu.x.getLsbD ((i + n.toNat) % 32)) ∧
  (∀ n, encode (.rotr n) = packWu 3 n) ∧
  (∀ (m n : BitVec 5) (x : Word), wordRotr 0 x = x ∧ wordRotr n (wordRotr m x) = wordRotr (m + n) x ∧
    wordRotr n 0 = 0 ∧ wordRotr n 0xFFFFFFFF = 0xFFFFFFFF) ∧
  wordRotr 1 0x00000001 = 0x80000000 ∧ wordRotr 8 0x12345678 = 0x78123456

/-- 40_word_unit.md R105. -/
def Obligations.ShrIsLogical : Prop :=
  (∀ (s : State) (n : BitVec 5), ∃ r : Word, exec (.shr n) s = .next { s with wu := { s.wu with r := r } } ∧
    r.toNat = s.wu.x.toNat / 2 ^ n.toNat ∧
    ∀ i, i < 32 → r.getLsbD i = if i + n.toNat ≤ 31 then s.wu.x.getLsbD (i + n.toNat) else false) ∧
  (∀ n, encode (.shr n) = packWu 4 n) ∧
  (∀ x : Word, wordShr 0 x = x ∧ wordShr 31 x = (field x 31 1).zeroExtend 32) ∧
  wordShr 31 0x80000000 = 1 ∧ wordShr 4 0x12345678 = 0x01234567

/-- `ADD` is addition modulo `2^32` and equals the ripple-carry adder whose carry is the majority (40_word_unit.md
section 2; the sum bit of that adder is general knowledge by the spec's own mark, log 13). -/
def Obligations.AddIsRippleCarryModuloWord : Prop :=
  (∀ s : State, ∃ r : Word, exec .add s = .next { s with wu := { s.wu with r := r } } ∧
    r.toNat = (s.wu.x.toNat + s.wu.y.toNat) % 2 ^ 32 ∧
    ∀ i, i < 32 → r.getLsbD i = rippleSum s.wu.x s.wu.y i) ∧
  encode .add = packWu 5 0 ∧
  (∀ x y z : Word, wordAdd x 0 = x ∧ wordAdd x y = wordAdd y x ∧
    wordAdd (wordAdd x y) z = wordAdd x (wordAdd y z)) ∧
  wordAdd 0xFFFFFFFF 1 = 0 ∧ wordAdd 0x80000000 0x80000000 = 0 ∧
  wordAdd 0xFFFFFFFF 0xFFFFFFFF = 0xFFFFFFFE ∧ wordAdd 0x6A09E667 0xBB67AE85 = 0x257194EC

/-- 40_word_unit.md R108 with the truth table of R107. -/
def Obligations.MajIsMajorityOfBits : Prop :=
  (∀ s : State, ∃ r : Word, exec .maj s = .next { s with wu := { s.wu with r := r } } ∧
    (∀ i, i < 32 → r.getLsbD i = majority (s.wu.x.getLsbD i) (s.wu.y.getLsbD i) (s.wu.z.getLsbD i)) ∧
    r = wordXor (wordXor (wordAnd s.wu.x s.wu.y) (wordAnd s.wu.x s.wu.z)) (wordAnd s.wu.y s.wu.z)) ∧
  encode .maj = packWu 6 0 ∧
  (∀ a b c : Bool, majority a b c = decide (2 ≤ a.toNat + b.toNat + c.toNat)) ∧
  majority false false false = false ∧ majority false false true = false ∧
  majority false true false = false ∧ majority false true true = true ∧
  majority true false false = false ∧ majority true false true = true ∧
  majority true true false = true ∧ majority true true true = true ∧
  (∀ x y z : Word, wordMaj x y z = wordMaj y x z ∧ wordMaj x y z = wordMaj x z y ∧ wordMaj x x z = x ∧
    wordMaj x y 0 = wordAnd x y ∧ wordMaj x y 0xFFFFFFFF = x ||| y) ∧
  wordMaj 0x6A09E667 0xBB67AE85 0x3C6EF372 = 0x3A6FE667

/-- 40_word_unit.md R109. -/
def Obligations.ChChooses : Prop :=
  (∀ s : State, ∃ r : Word, exec .ch s = .next { s with wu := { s.wu with r := r } } ∧
    r = wordXor (wordAnd s.wu.x s.wu.y) (wordAnd (wordNot s.wu.x) s.wu.z) ∧
    ∀ i, i < 32 → r.getLsbD i = if s.wu.x.getLsbD i then s.wu.y.getLsbD i else s.wu.z.getLsbD i) ∧
  encode .ch = packWu 12 0 ∧
  (∀ x y z : Word, wordCh 0xFFFFFFFF y z = y ∧ wordCh 0 y z = z ∧ wordCh x y y = y ∧
    (x &&& y) &&& (~~~x &&& z) = 0) ∧
  wordCh 0x510E527F 0x9B05688C 0x1F83D9AB = 0x1F85C98C

/-- 40_word_unit.md R110 and R111: the two small sigmas. -/
def Obligations.SmallSigmas : Prop :=
  ((∀ s : State, exec .ssig0 s = .next { s with wu := { s.wu with
      r := wordXor (wordXor (wordRotr 7 s.wu.x) (wordRotr 18 s.wu.x)) (wordShr 3 s.wu.x) } }) ∧
    encode .ssig0 = packWu 8 0 ∧ wordSsig0 0 = 0 ∧ wordSsig0 0xFFFFFFFF = 0x1FFFFFFF ∧
    (∀ x y, wordSsig0 (wordXor x y) = wordXor (wordSsig0 x) (wordSsig0 y)) ∧
    wordSsig0 0x00000001 = 0x02004000 ∧ wordSsig0 0x80000000 = 0x11002000 ∧ wordSsig0 0x61626380 = 0x940E90EF) ∧
  ((∀ s : State, exec .ssig1 s = .next { s with wu := { s.wu with
      r := wordXor (wordXor (wordRotr 17 s.wu.x) (wordRotr 19 s.wu.x)) (wordShr 10 s.wu.x) } }) ∧
    encode .ssig1 = packWu 9 0 ∧ wordSsig1 0 = 0 ∧ wordSsig1 0xFFFFFFFF = 0x003FFFFF ∧
    (∀ x y, wordSsig1 (wordXor x y) = wordXor (wordSsig1 x) (wordSsig1 y)) ∧
    wordSsig1 0x00000001 = 0x0000A000 ∧ wordSsig1 0x80000000 = 0x00205000 ∧ wordSsig1 0x00000018 = 0x000F0000)

/-- 40_word_unit.md R112 and R113: the two big sigmas. -/
def Obligations.BigSigmas : Prop :=
  ((∀ s : State, exec .bsig0 s = .next { s with wu := { s.wu with
      r := wordXor (wordXor (wordRotr 2 s.wu.x) (wordRotr 13 s.wu.x)) (wordRotr 22 s.wu.x) } }) ∧
    encode .bsig0 = packWu 10 0 ∧ wordBsig0 0 = 0 ∧ wordBsig0 0xFFFFFFFF = 0xFFFFFFFF ∧
    (∀ x y, wordBsig0 (wordXor x y) = wordXor (wordBsig0 x) (wordBsig0 y)) ∧
    wordRotr 2 0x6A09E667 = 0xDA827999 ∧ wordRotr 13 0x6A09E667 = 0x333B504F ∧
    wordRotr 22 0x6A09E667 = 0x27999DA8 ∧ wordBsig0 0x6A09E667 = 0xCE20B47E) ∧
  ((∀ s : State, exec .bsig1 s = .next { s with wu := { s.wu with
      r := wordXor (wordXor (wordRotr 6 s.wu.x) (wordRotr 11 s.wu.x)) (wordRotr 25 s.wu.x) } }) ∧
    encode .bsig1 = packWu 11 0 ∧ wordBsig1 0 = 0 ∧ wordBsig1 0xFFFFFFFF = 0xFFFFFFFF ∧
    (∀ x y, wordBsig1 (wordXor x y) = wordXor (wordBsig1 x) (wordBsig1 y)) ∧
    wordBsig1 0x510E527F = 0x3587272B)

/-- A word-unit function completes in every state and leaves everything but the result port as it was, every byte of
memory with it; it depends on the operand ports alone (30_encoding.md section 6: "It has no state, no clock and no flag
output"; the ports are the model's, log 6). -/
def Obligations.WordUnitFrame : Prop :=
  ∀ (i : Instr), i.level = .wordUnitFunction → ∀ s : State, ∃ t : State, exec i s = .next t ∧
    t.H = s.H ∧ t.work = s.work ∧ t.W = s.W ∧ t.BLKBUF = s.BLKBUF ∧ t.MLEN = s.MLEN ∧ t.DIGEST = s.DIGEST ∧
    t.MODE = s.MODE ∧ t.ERRCODE = s.ERRCODE ∧ t.BLK = s.BLK ∧ t.NBLK = s.NBLK ∧ t.T = s.T ∧
    t.msgMax = s.msgMax ∧ t.resp = s.resp ∧ t.stream = s.stream ∧
    t.wu.x = s.wu.x ∧ t.wu.y = s.wu.y ∧ t.wu.z = s.wu.z ∧
    (∀ a, Mem.read t.MSG a = Mem.read s.MSG a) ∧
    (∀ s' t' : State, s'.wu.x = s.wu.x → s'.wu.y = s.wu.y → s'.wu.z = s.wu.z → exec i s' = .next t' →
      t'.wu.r = t.wu.r)

/-! ### The padder -/

/-- 20_memory.md R53, 41_padder.md R131, R132 and R136: the message as bits, the marker right after it, and the length
field of the unpadded bit count in the last 64 positions, big-endian, for every message within the precondition
`L < 2^64` of `pad` (93_implementation_defined.md U3); every message the memory holds is within it. -/
def Obligations.MarkerAndLengthField : Prop :=
  (∀ (m : List Byte) (i : Fin m.length) (p : Fin 8),
    (messageBits m).length = 8 * m.length ∧
      (messageBits m)[8 * i.val + p.val]? = some (m[i].getLsbD (7 - p.val))) ∧
  messageBits [] = [] ∧
  (∀ m : List Bool, m.length < 2 ^ 64 →
    (padBits m)[m.length]? = some true ∧
    ∀ q, q < 64 → (padBits m)[(padBits m).length - 64 + q]? = some (m.length.testBit (63 - q))) ∧
  (∀ s : State, s.MLEN ≤ s.msgMax.val → (messageBits s.message).length = 8 * s.MLEN ∧ 8 * s.MLEN < 2 ^ 64) ∧
  wordOfBits ((lengthBits 24).take 32) = 0 ∧ wordOfBits ((lengthBits 24).drop 32) = 0x18 ∧
  wordOfBits ((lengthBits 448).take 32) = 0 ∧ wordOfBits ((lengthBits 448).drop 32) = 0x1C0

/-- The three branches of the padding, and one formula that gives them all (41_padder.md section 1; the spec marks the
formula as derived). Each branch has the shape message, marker, `k` zeros, length field, with the `k` and the length of
its rule; in branch 2 overwriting is appending, in branch 3 `k` is the least. Within the precondition `L < 2^64` of `pad`
(93_implementation_defined.md U3). -/
def Obligations.PaddingBranchesAreOneFormula : Prop :=
  (∀ m : List Bool, m.length < 2 ^ 64 →
    padBits m = m ++ [true] ++ List.replicate (zeroCount m.length) false ++
      lengthBits (BitVec.ofNat 64 m.length) ∧
    (padBits m).length = m.length + 1 + zeroCount m.length + 64 ∧
    (padBits m).length = 512 * ((m.length + 64) / 512 + 1) ∧ zeroCount m.length < 512 ∧
    (m.length < 448 → zeroCount m.length = 447 - m.length ∧ (padBits m).length = 512) ∧
    (448 ≤ m.length → m.length ≤ 512 → zeroCount m.length = 959 - m.length ∧ (padBits m).length = 1024) ∧
    (512 < m.length → (m.length + 1 + zeroCount m.length) % 512 = 448 ∧
      ∀ k, k < zeroCount m.length → (m.length + 1 + k) % 512 ≠ 448)) ∧
  [0, 440, 447, 448, 512, 513, 520, 959, 960].map zeroCount = [447, 7, 0, 511, 447, 446, 439, 0, 511] ∧
  (blocksOfBits (padBits (messageBits [0x61, 0x62, 0x63]))).map (·.toList) =
    [0x61626380 :: List.replicate 14 0 ++ [0x18]] ∧
  (blocksOfBits (padBits (messageBits (List.replicate 56 0x61)))).map (·.toList) =
    [List.replicate 14 0x61616161 ++ [0x80000000, 0], List.replicate 15 0 ++ [0x1C0]] ∧
  (blocksOfBits (padBits (messageBits (List.replicate 65 0x61)))).map (·.toList) =
    [List.replicate 16 0x61616161, 0x61800000 :: List.replicate 14 0 ++ [0x208]]

/-- The byte-level padding is the bit-level padding of the message's bits (41_padder.md section 1; the spec marks the
byte-level form as derived). -/
def Obligations.BytePaddingIsBitPadding : Prop :=
  ∀ m : List Byte, 8 * m.length < 2 ^ 64 →
    (((List.range (64 * blockCount m.length)).map (padByte (fun i => m.getD i 0) m.length)).flatMap bitsOfByte) =
      padBits (messageBits m)

/-- The blocks that the engine fetches are the blocks of the bit-level padding (41_padder.md section 2; the spec marks
`BLKFETCH`'s form as derived). -/
def Obligations.FetchedBlocksAreThePadding : Prop :=
  ∀ s : State, s.MLEN ≤ s.msgMax.val →
    (List.range (blockCount s.MLEN)).map (padBlock s.msgByte s.MLEN) = blocksOfBits (padBits (messageBits s.message))

/-- `BLKFETCH` under its precondition completes with block `BLK` in `BLKBUF` and the next index in `BLK`; message words
are `MemRead(64*BLK + 4*t, 4)`, and the last block ends in the length (41_padder.md section 2 and 20_memory.md section
2; the spec marks the rule as derived). -/
def Obligations.BlkfetchDeliversBlock : Prop :=
  (∀ s : State, MessageReadable s → s.BLK < s.NBLK → s.NBLK = blockCount s.MLEN →
    exec .blkfetch s = .next { s with BLKBUF := padBlock s.msgByte s.MLEN s.BLK, BLK := s.BLK + 1 }) ∧
  (∀ s : State, s.MLEN ≤ s.msgMax.val → s.BLK < s.NBLK → s.NBLK = blockCount s.MLEN →
    (∀ t : Fin 16, 64 * s.BLK + 4 * t.val + 3 < s.MLEN →
      s.blkfetch.BLKBUF[t] = s.memRead4 (64 * s.BLK + 4 * t.val)) ∧
    (s.BLK + 1 = s.NBLK →
      s.blkfetch.BLKBUF[14].toNat = 8 * s.MLEN / 2 ^ 32 ∧ s.blkfetch.BLKBUF[15].toNat = 8 * s.MLEN % 2 ^ 32))

/-- Outside its precondition, which holds inside `HASH`, `BLKFETCH` on the bench (log 6) still completes, advances `BLK`
and changes nothing but `BLKBUF`; of the words it leaves there nothing is said (the model's choice, log 7). In states that
no run from reset reaches: where the message has a byte without a value, `BLKFETCH` and `HASH` stop by name (log 4;
10_state.md sections 5 and 8); where it reaches beyond the memory, `PUSH` does too (log 8; 20_memory.md section 1). -/
def Obligations.OutsidePreconditions : Prop :=
  ∀ s : State,
    (MessageReadable s → ¬(s.BLK < s.NBLK ∧ s.NBLK = blockCount s.MLEN) →
      ∃ t : State, exec .blkfetch s = .next t ∧ t = { s with BLKBUF := t.BLKBUF, BLK := s.BLK + 1 }) ∧
    (s.msgMax.val < s.MLEN → exec .blkfetch s = .fault .noSuchMessageByte ∧
      (s.MODE = .load → exec .hash s = .fault .noSuchMessageByte ∧
        ∀ c : BitVec 16, c.toNat ≤ 255 → exec (.push c) s = .fault .noSuchMessageByte)) ∧
    (s.MLEN ≤ s.msgMax.val → (∃ i, i < s.MLEN ∧ Mem.read s.MSG i = none) →
      exec .blkfetch s = .fault .unwrittenMessageByte ∧
      (s.MODE = .load → exec .hash s = .fault .unwrittenMessageByte))

/-! ### The message scheduler -/

/-- 42_schedule.md R150. -/
def Obligations.WloadCopiesBlock : Prop :=
  encode .wload = packSeq 2 0 ∧
  ∀ s : State, ∃ t : State, exec .wload s = .next t ∧ t = { s with W := t.W, T := 16 } ∧
    (∀ k : Fin 64, ∀ h : k.val < 16, t.W[k] = s.BLKBUF[k.val]) ∧ (∀ k : Fin 64, 16 ≤ k.val → t.W[k] = s.W[k])

/-- 42_schedule.md R151. -/
def Obligations.WexpExpands : Prop :=
  (∀ i, encode (.wexp i) = packSeq 3 i) ∧
  (∀ (s : State) (i : BitVec 6), 16 ≤ i.toNat → ∃ t : State, exec (.wexp i) s = .next t ∧
    t = { s with W := t.W, T := i.toNat + 1 } ∧
    t.W[index64 i] = s.W[(index64 i).val - 16] + wordSsig0 s.W[(index64 i).val - 15] + s.W[(index64 i).val - 7]
      + wordSsig1 s.W[(index64 i).val - 2] ∧
    ∀ k : Fin 64, k ≠ index64 i → t.W[k] = s.W[k]) ∧
  schedule (Vector.replicate 16 0) = Vector.replicate 64 0 ∧
  (schedule #v[0x61626380, 0, 0, 0, 0, 0, 0, 0, 0, 0, 0, 0, 0, 0, 0, 0x18])[16] = 0x61626380 ∧
  (schedule #v[0x61626380, 0, 0, 0, 0, 0, 0, 0, 0, 0, 0, 0, 0, 0, 0, 0x18])[17] = 0x000F0000 ∧
  (schedule #v[0x61626380, 0, 0, 0, 0, 0, 0, 0, 0, 0, 0, 0, 0, 0, 0, 0x18])[18] = 0x7DA86405 ∧
  (∀ i : BitVec 6, i.toNat < 16 → ∃ e, decodeSeq (3#3 ++ i) = .error e)

/-- After `WLOAD` and `WEXP 16` to `WEXP 63` the schedule is a function of the block alone, whatever `W` held before,
and satisfies the recurrence (42_schedule.md; the spec marks this as derived). -/
def Obligations.ScheduleIsFunctionOfBlock : Prop :=
  (∀ s : State, (expandIndices.foldl State.wexp s.wload).W = schedule s.BLKBUF ∧
    (expandIndices.foldl State.wexp s.wload).T = 64) ∧
  (∀ (B : Vector Word 16), (∀ (k : Fin 64) (h : k.val < 16), (schedule B)[k] = B[k.val]) ∧
    ∀ k : Fin 64, 16 ≤ k.val →
      (schedule B)[k] = (schedule B)[k.val - 16] + wordSsig0 (schedule B)[k.val - 15] + (schedule B)[k.val - 7]
        + wordSsig1 (schedule B)[k.val - 2])

/-! ### The compression engine -/

/-- 43_compression.md R163. -/
def Obligations.HinitLoadsIv : Prop :=
  encode .hinit = packSeq 0 0 ∧
  (∀ s : State, exec .hinit s = .next { s with H := IV, BLK := 0, NBLK := (s.MLEN + 8) / 64 + 1 }) ∧
  blockCount 0 = 1 ∧ blockCount 55 = 1 ∧ blockCount 56 = 2 ∧ blockCount 119 = 2 ∧ blockCount 120 = 3 ∧
  IV[0] = 0x6A09E667 ∧ IV[7] = 0x5BE0CD19

/-- 43_compression.md R164. -/
def Obligations.RinitLoadsWorkingRegisters : Prop :=
  encode .rinit = packSeq 4 0 ∧
  (workOf IV).a = 0x6A09E667 ∧ (workOf IV).e = 0x510E527F ∧ (workOf IV).h = 0x5BE0CD19 ∧
  ∀ s : State, exec .rinit s = .next { s with T := 0, work :=
    { a := s.H[0], b := s.H[1], c := s.H[2], d := s.H[3], e := s.H[4], f := s.H[5], g := s.H[6], h := s.H[7] } }

/-- 43_compression.md R165. -/
def Obligations.RoundComputes : Prop :=
  (∀ i, encode (.round i) = packSeq 5 i) ∧
  (∀ (s : State) (i : BitVec 6), ∃ t1 t2 : Word,
    t1 = s.work.h + wordBsig1 s.work.e + wordCh s.work.e s.work.f s.work.g + K[index64 i] + s.W[index64 i] ∧
    t2 = wordBsig0 s.work.a + wordMaj s.work.a s.work.b s.work.c ∧
    exec (.round i) s = .next { s with T := i.toNat + 1, work :=
      { a := t1 + t2, b := s.work.a, c := s.work.b, d := s.work.c, e := s.work.d + t1, f := s.work.e,
        g := s.work.f, h := s.work.g } }) ∧
  wordBsig1 (workOf IV).e = 0x3587272B ∧ wordCh (workOf IV).e (workOf IV).f (workOf IV).g = 0x1F85C98C ∧
  wordBsig0 (workOf IV).a = 0xCE20B47E ∧ wordMaj (workOf IV).a (workOf IV).b (workOf IV).c = 0x3A6FE667 ∧
  K[0] = 0x428A2F98 ∧ temp1 (workOf IV) K[0] 0x61626380 = 0x54DA50E8 ∧ temp2 (workOf IV) = 0x08909AE5 ∧
  roundWork K[0] 0x61626380 (workOf IV) =
    { a := 0x5D6AEBCD, b := 0x6A09E667, c := 0xBB67AE85, d := 0x3C6EF372, e := 0xFA2A4622, f := 0x510E527F,
      g := 0x9B05688C, h := 0x1F83D9AB }

/-- For a fixed round constant and schedule word a round is a bijection of the working registers (43_compression.md
section 1, "a round is a bijection of `a .. h`"). -/
def Obligations.RoundIsBijection : Prop :=
  ∀ k w : Word, Function.Bijective (roundWork k w)

/-- 43_compression.md R167. -/
def Obligations.HaddAddsBack : Prop :=
  encode .hadd = packSeq 6 0 ∧
  (∀ s : State, exec .hadd s = .next { s with H :=
    #v[s.H[0] + s.work.a, s.H[1] + s.work.b, s.H[2] + s.work.c, s.H[3] + s.work.d,
      s.H[4] + s.work.e, s.H[5] + s.work.f, s.H[6] + s.work.g, s.H[7] + s.work.h] }) ∧
  addBack IV
      { a := 0x506E3058, b := 0xD39A2165, c := 0x04D24D6C, d := 0xB85E2CE9,
        e := 0x5EF50F24, f := 0xFB121210, g := 0x948D25B6, h := 0x961F4894 } =
    #v[0xBA7816BF, 0x8F01CFEA, 0x414140DE, 0x5DAE2223, 0xB00361A3, 0x96177A9C, 0xB410FF61, 0xF20015AD]

/-- One iteration of the block loop applies the block function to `H` and the fetched block and advances `BLK`; the
message, the mode and the digest string are untouched (43_compression.md section 3; the spec marks it as derived). -/
def Obligations.BlockIterationIsBlockfn : Prop :=
  ∀ s : State, s.BLK < s.NBLK → s.NBLK = blockCount s.MLEN →
    s.hashBlock.H = blockfn s.H (padBlock s.msgByte s.MLEN s.BLK) ∧ s.hashBlock.BLK = s.BLK + 1 ∧
    s.hashBlock.NBLK = s.NBLK ∧ s.hashBlock.MSG = s.MSG ∧ s.hashBlock.MLEN = s.MLEN ∧ s.hashBlock.MODE = s.MODE ∧
    s.hashBlock.DIGEST = s.DIGEST ∧ s.hashBlock.T = 64

/-! ### The formatter -/

/-- 44_formatter.md R183 with the digit order of R181. -/
def Obligations.HexfmtRenders : Prop :=
  encode .hexfmt = packSeq 7 0 ∧
  (∀ s : State, ∃ t : State, exec .hexfmt s = .next t ∧ t = { s with DIGEST := t.DIGEST } ∧
    ∀ (i n : Fin 8), t.DIGEST[8 * i.val + n.val] =
      HEXTAB[(s.H[i].extractLsb' (28 - 4 * n.val) 4).toFin] ∧
      t.DIGEST[8 * i.val + n.val] = (hex8 s.H[i])[n]) ∧
  hex8 0x0000000F = #v[0x30, 0x30, 0x30, 0x30, 0x30, 0x30, 0x30, 0x66] ∧
  hex8 0xBA7816BF = #v[0x62, 0x61, 0x37, 0x38, 0x31, 0x36, 0x62, 0x66] ∧
  hex8 0 = Vector.replicate 8 0x30 ∧
  (let d := hexString #v[0xBA7816BF, 0x8F01CFEA, 0x414140DE, 0x5DAE2223, 0xB00361A3, 0x96177A9C, 0xB410FF61, 0xF20015AD]
   d[0] = 0x62 ∧ d[1] = 0x61 ∧ d[63] = 0x64)

/-- Every character of the digest string is one of `0-9a-f` and the string determines the hash state
(44_formatter.md; the spec marks it as derived, and the character codes as general knowledge, log 12). -/
def Obligations.DigestStringDeterminesState : Prop :=
  (∀ (h : Vector Word 8) (j : Fin 64),
    (0x30 ≤ (hexString h)[j].toNat ∧ (hexString h)[j].toNat ≤ 0x39) ∨
    (0x61 ≤ (hexString h)[j].toNat ∧ (hexString h)[j].toNat ≤ 0x66)) ∧
  (∀ h h' : Vector Word 8, hexString h = hexString h' → h = h')

/-! ### Host commands -/

/-- 10_state.md R36: `CLR`, in any mode, and `RST` produce the same state, the reset state, in which `MODE = LOAD`,
`ERRCODE = 0`, `MLEN = 0`, `STATUS = 0` and no byte of `MSG` has a value. -/
def Obligations.ClrProducesResetState : Prop :=
  ∀ s : State, exec .clr s = .next { State.reset with msgMax := s.msgMax, stream := s.stream } ∧
    exec .clr s = issue .rst s ∧
    (∀ t, exec .clr s = .next t → t.MODE = .load ∧ t.ERRCODE = 0 ∧ t.MLEN = 0 ∧ t.status = 0 ∧ t.resp = none ∧
      (∀ a, Mem.read t.MSG a = none) ∧ exec .clr t = .next t)

/-- What reset leaves where the spec gives a value (10_state.md section 9); the capacity and the empty stream are the
model's choice (log 5, log 1). -/
def Obligations.ResetLeaves : Prop :=
  State.reset.MODE = .load ∧ State.reset.ERRCODE = 0 ∧ State.reset.MLEN = 0 ∧ State.reset.status = 0 ∧
  (∀ a, Mem.read State.reset.MSG a = none) ∧ State.reset.stream = [] ∧ State.reset.msgMax.val = 2 ^ 61 - 1

/-- 70_reset_and_hazards.md R243: after reset each of the six commands is a legal first command with this outcome. -/
def Obligations.FirstCommandsAfterReset : Prop :=
  ∀ s : State, issue .rst s = .next s.clear ∧
    exec .clr s.clear = .next s.clear ∧
    (∀ c : BitVec 16, c.toNat ≤ 255 → 0 < s.msgMax.val → ∃ t, exec (.push c) s.clear = .next t ∧
      t.MODE = .load ∧ t.MLEN = 1 ∧ t.message = [c.extractLsb' 0 8]) ∧
    (∃ t, exec .hash s.clear = .next t ∧ t.MODE = .done ∧ t.DIGEST = sha256 []) ∧
    exec .rdstat s.clear = .next { s.clear with resp := some 0 } ∧
    (∀ i, exec (.rdhex i) s.clear = .next { s.clear with MODE := .error, ERRCODE := 4 }) ∧
    (∀ i, exec (.rdh i) s.clear = .next { s.clear with MODE := .error, ERRCODE := 4 })

/-- 45_host_commands.md R192 (and 60_exceptions.md R215): the append, and each fault with its condition, in the fixed order
of the checks; `0x02000063` is `PUSH 'c'`, and a word with `cmd[23:16]` not zero is no `PUSH`. -/
def Obligations.PushOutcome : Prop :=
  (∀ c, encode (.push c) = .cmd (0x02000000 + c.zeroExtend 32)) ∧ encode (.push 0x63) = .cmd 0x02000063 ∧
  (∀ w, field w 24 8 = 0x02#8 → field w 16 8 ≠ 0#8 → ∃ e, decodeCmd w = .error e) ∧
  ∀ (s : State) (c : BitVec 16),
    (s.MODE = .done → exec (.push c) s = .next { s with MODE := .error, ERRCODE := 4, resp := none }) ∧
    (s.MODE = .load → 255 < c.toNat →
      exec (.push c) s = .next { s with MODE := .error, ERRCODE := 1, resp := none }) ∧
    (s.MODE = .load → c.toNat ≤ 255 → s.MLEN = s.msgMax.val →
      exec (.push c) s = .next { s with MODE := .error, ERRCODE := 5, resp := none }) ∧
    (s.MODE = .load → c.toNat ≤ 255 → s.MLEN < s.msgMax.val → ∃ t, exec (.push c) s = .next t ∧
      t = { s with MSG := t.MSG, MLEN := s.MLEN + 1, resp := none } ∧
      Mem.read t.MSG s.MLEN = some (c.extractLsb' 0 8) ∧ ∀ a, a ≠ s.MLEN → Mem.read t.MSG a = Mem.read s.MSG a)

/-- The frame of `PUSH`: whatever it does when it completes, every register but `MLEN`, `MODE`, `ERRCODE` and the
response is unchanged, and every byte of memory but the one at index `MLEN` reads as before (20_memory.md section 1). -/
def Obligations.PushFrame : Prop :=
  ∀ (s t : State) (c : BitVec 16), exec (.push c) s = .next t →
    t.H = s.H ∧ t.work = s.work ∧ t.W = s.W ∧ t.BLKBUF = s.BLKBUF ∧ t.DIGEST = s.DIGEST ∧ t.BLK = s.BLK ∧
    t.NBLK = s.NBLK ∧ t.T = s.T ∧ t.msgMax = s.msgMax ∧ t.wu = s.wu ∧ t.stream = s.stream ∧
    (∀ a, a ≠ s.MLEN → Mem.read t.MSG a = Mem.read s.MSG a) ∧
    (Mem.wf s.MSG = true → Mem.wf t.MSG = true)

/-- 45_host_commands.md R194: in mode `LOAD`, `HASH` is the micro-operations of the trace executed one after the other,
each by its own meaning, and then `MODE <- DONE`, with the message kept; in mode `DONE` it faults; the rule's example. -/
def Obligations.HashIsItsMicroOperations : Prop :=
  encode .hash = .cmd 0x03000000 ∧
  (∀ n, microTrace n = [.hinit] ++ (List.replicate n
      ([.blkfetch, .wload] ++ (List.range' 16 48).map (fun i => Instr.wexp (BitVec.ofNat 6 i)) ++ [.rinit] ++
        (List.range 64).map (fun i => Instr.round (BitVec.ofNat 6 i)) ++ [.hadd])).flatten ++ [.hexfmt]) ∧
  (∀ s : State, s.MODE = .load → MessageReadable s →
    ∃ u : State, execAll (microTrace (blockCount s.MLEN)) s = .next u ∧
      exec .hash s = .next { u with MODE := .done, resp := none } ∧ u.BLK = blockCount s.MLEN ∧
      u.NBLK = blockCount s.MLEN ∧ u.MSG = s.MSG ∧ u.MLEN = s.MLEN) ∧
  (∀ s : State, s.MODE = .done → exec .hash s = .next { s with MODE := .error, ERRCODE := 4, resp := none }) ∧
  (∃ t : State, execAll [.push 0x61, .push 0x62, .push 0x63, .hash] State.reset = .next t ∧ t.status = 0x00000001 ∧
    t.H = #v[0xBA7816BF, 0x8F01CFEA, 0x414140DE, 0x5DAE2223, 0xB00361A3, 0x96177A9C, 0xB410FF61, 0xF20015AD])

/-- A `HASH` of `n` blocks is `2 + 116 * n` micro-operations, each a well-formed instruction of its level whose word
decodes to it: the sequencer issues no reserved word (93_implementation_defined.md U6, 70_reset_and_hazards.md section
4). -/
def Obligations.SequencerIssuesOnlyMicroOperations : Prop :=
  ∀ n, (microTrace n).length = 2 + 116 * n ∧
    ∀ i ∈ microTrace n, i.level = .microOperation ∧ i.wf = true ∧ decode (encode i) = .ok i

/-- In mode `LOAD` on a readable message, `HASH` completes, leaves in `H` the digest state of the message by the
bit-level padding and the compression, in `DIGEST` its 64 characters, and keeps the message (45_host_commands.md
section 2; the spec marks the composite as derived). -/
def Obligations.HashComputesSha256 : Prop :=
  ∀ s : State, s.MODE = .load → MessageReadable s →
    ∃ t : State, exec .hash s = .next t ∧ t.H = compress IV (blocksOfBits (padBits (messageBits s.message))) ∧
      t.DIGEST = sha256 s.message ∧ t.MODE = .done ∧ t.message = s.message ∧ t.resp = none

/-- The frame of `HASH`: whatever it does when it completes, the message, its length, the parameter, the ports and the
stream are unchanged, every byte of memory reads as before, and outside mode `LOAD` so is every register but `MODE`,
`ERRCODE` and the response (45_host_commands.md section 2). That `HASH` computes without touching the word unit's ports,
and that the stream is kept, is the model's choice (log 6, log 1): in the spec the micro-operations use that unit. -/
def Obligations.HashFrame : Prop :=
  ∀ s t : State, exec .hash s = .next t →
    (∀ a, Mem.read t.MSG a = Mem.read s.MSG a) ∧ t.MLEN = s.MLEN ∧ t.msgMax = s.msgMax ∧ t.wu = s.wu ∧
    t.stream = s.stream ∧ (s.MODE ≠ .done → t.ERRCODE = s.ERRCODE) ∧
    (s.MODE ≠ .load → t = { s with MODE := .error, ERRCODE := t.ERRCODE, resp := none })

/-- 45_host_commands.md R197 and R198: `RDHEX idx` and `RDH idx` in each mode that does not ignore them; a response
changes nothing else and comes again on repeating; of a rendered digest every `RDHEX` response is one of the sixteen
codes, and `RDH i` agrees with `RDHEX 8*i .. 8*i+7`; the rules' examples, on the digest of `abc`. -/
def Obligations.DigestReadsRespond : Prop :=
  (∀ i, encode (.rdhex i) = .cmd (0x04000000 + i.zeroExtend 32)) ∧
  (∀ i, encode (.rdh i) = .cmd (0x05000000 + i.zeroExtend 32)) ∧
  (∀ (s : State) (i : BitVec 6),
    (s.MODE = .done → ∃ t : State, t = { s with resp := some (s.DIGEST[index64 i].zeroExtend 32) } ∧
      exec (.rdhex i) s = .next t ∧ exec (.rdhex i) t = .next t) ∧
    (s.MODE = .load → exec (.rdhex i) s = .next { s with MODE := .error, ERRCODE := 4, resp := none }) ∧
    (s.DIGEST = hexString s.H → ∃ v : Fin 16, s.DIGEST[index64 i] = HEXTAB[v])) ∧
  (∀ (s : State) (i : BitVec 3),
    (s.MODE = .done → ∃ t : State, t = { s with resp := some s.H[index8 i] } ∧
      exec (.rdh i) s = .next t ∧ exec (.rdh i) t = .next t) ∧
    (s.MODE = .load → exec (.rdh i) s = .next { s with MODE := .error, ERRCODE := 4, resp := none }) ∧
    (s.DIGEST = hexString s.H → ∀ n : Fin 8,
      s.DIGEST[8 * (index8 i).val + n.val]'(by omega) = (hex8 s.H[index8 i])[n])) ∧
  (∀ s : State, s.MODE = .done → s.DIGEST = hexString s.H →
    s.H = #v[0xBA7816BF, 0x8F01CFEA, 0x414140DE, 0x5DAE2223, 0xB00361A3, 0x96177A9C, 0xB410FF61, 0xF20015AD] →
    issueCmd 0x04000000 s = .next { s with resp := some 0x00000062 } ∧
    issueCmd 0x0400003F s = .next { s with resp := some 0x00000064 } ∧
    issueCmd 0x05000000 s = .next { s with resp := some 0xBA7816BF } ∧
    issueCmd 0x05000007 s = .next { s with resp := some 0xF20015AD })

/-- 45_host_commands.md R199: `RDSTAT` responds `STATUS` in every mode and changes nothing; which responses there are
(under the invariant of the fault code); the rule's examples. -/
def Obligations.RdstatResponds : Prop :=
  encode .rdstat = .cmd 0x06000000 ∧
  (∀ s : State, exec .rdstat s = .next { s with resp := some s.status } ∧
    (StatusInv s →
      (s.MODE = .load → s.status = 0x00000000) ∧ (s.MODE = .done → s.status = 0x00000001) ∧
      (s.MODE = .error → s.status = 0x00000102 ∨ s.status = 0x00000302 ∨ s.status = 0x00000402 ∨
        s.status = 0x00000502))) ∧
  exec .rdstat State.reset = .next { State.reset with resp := some 0x00000000 } ∧
  (∃ t, execAll [.push 0x100, .rdstat] State.reset = .next t ∧ t.resp = some 0x00000102)

/-- 10_state.md R29: the layout of `STATUS`, what `RDSTAT` responds, and what sets and clears its bits. -/
def Obligations.StatusLayout : Prop :=
  ∀ s : State,
    (s.status.getLsbD 0 = true ↔ s.MODE = .done) ∧ (s.status.getLsbD 1 = true ↔ s.MODE = .error) ∧
    field s.status 2 6 = 0 ∧ field s.status 12 20 = 0 ∧
    (s.MODE = .error → field s.status 8 4 = s.ERRCODE) ∧ (s.MODE ≠ .error → field s.status 8 4 = 0) ∧
    (s.status.getLsbD 0 && s.status.getLsbD 1) = false ∧
    exec .rdstat s = .next { s with resp := some s.status } ∧
    (∀ t, s.MODE = .load → exec .hash s = .next t → t.status = 1) ∧
    (∀ f, (s.raise f).status.getLsbD 1 = true ∧ field (s.raise f).status 8 4 = faultCode f) ∧
    (∀ t, exec .clr s = .next t → t.status = 0) ∧ (∀ t, issue .rst s = .next t → t.status = 0) ∧
    State.reset.status = 0

/-- 45_host_commands.md R196: what each command word does in each mode. -/
def Obligations.CommandTable : Prop :=
  ∀ s : State,
    (∀ m : Mode, s.MODE = m → exec .clr s = .next s.clear) ∧
    (s.MODE = .load →
      (∀ c, c.toNat ≤ 255 → s.MLEN < s.msgMax.val → ∃ t, exec (.push c) s = .next t ∧ t.MODE = .load ∧
        t.message = s.message ++ [c.extractLsb' 0 8]) ∧
      (∀ c, 255 < c.toNat → exec (.push c) s = .next (s.raise .invalidInputEncoding)) ∧
      (∀ c, c.toNat ≤ 255 → s.MLEN = s.msgMax.val → exec (.push c) s = .next (s.raise .messageCapacity)) ∧
      (MessageReadable s → ∃ t, exec .hash s = .next t ∧ t.MODE = .done ∧ t.DIGEST = sha256 s.message) ∧
      (∀ i, exec (.rdhex i) s = .next (s.raise .sequenceError)) ∧
      (∀ i, exec (.rdh i) s = .next (s.raise .sequenceError)) ∧
      exec .rdstat s = .next (s.respond 0x00000000) ∧
      (∀ w e, decodeCmd w = .error e → issueCmd w s = .next (s.raise .illegalCommand))) ∧
    (s.MODE = .done →
      (∀ c, exec (.push c) s = .next (s.raise .sequenceError)) ∧
      exec .hash s = .next (s.raise .sequenceError) ∧
      (∀ i, exec (.rdhex i) s = .next (s.respond (s.DIGEST[index64 i].zeroExtend 32))) ∧
      (∀ i, exec (.rdh i) s = .next (s.respond s.H[index8 i])) ∧
      exec .rdstat s = .next (s.respond 0x00000001) ∧
      (∀ w e, decodeCmd w = .error e → issueCmd w s = .next (s.raise .illegalCommand))) ∧
    (s.MODE = .error →
      (∀ c, exec (.push c) s = .next s.noResponse) ∧ exec .hash s = .next s.noResponse ∧
      (∀ i, exec (.rdhex i) s = .next s.noResponse) ∧ (∀ i, exec (.rdh i) s = .next s.noResponse) ∧
      (∃ v, exec .rdstat s = .next (s.respond v) ∧ v.toNat = 2 + 256 * s.ERRCODE.toNat) ∧
      (∀ w e, decodeCmd w = .error e → issueCmd w s = .next s.noResponse))

/-! ### Faults -/

/-- 60_exceptions.md R216: a command that raises a fault changes `MODE` and `ERRCODE` and nothing else and gives no
response. For every command word in a mode that is not `ERROR`. -/
def Obligations.FaultsArePrecise : Prop :=
  ∀ (s t : State) (w : BitVec 32), s.MODE ≠ .error → issueCmd w s = .next t → t.MODE = .error →
    t = { s with MODE := .error, ERRCODE := t.ERRCODE, resp := none } ∧
    (t.ERRCODE = 1 ∨ t.ERRCODE = 3 ∨ t.ERRCODE = 4 ∨ t.ERRCODE = 5) ∧
    (∀ a, Mem.read t.MSG a = Mem.read s.MSG a)

/-- 60_exceptions.md R211: which fault code is latched for which cause, over every command
word in a mode that is not `ERROR`; code 2 and the codes 6 to 15 never are. -/
def Obligations.FaultCodesAndCauses : Prop :=
  (faultCode .invalidInputEncoding = 1 ∧ faultCode .internalInvariantError = 2 ∧ faultCode .illegalCommand = 3 ∧
    faultCode .sequenceError = 4 ∧ faultCode .messageCapacity = 5) ∧
  ∀ (s t : State) (w : BitVec 32), s.MODE ≠ .error → issueCmd w s = .next t → t.MODE = .error →
    (t.ERRCODE = 1 ∧ s.MODE = .load ∧ ∃ c, decodeCmd w = .ok (.push c) ∧ 256 ≤ c.toNat) ∨
    (t.ERRCODE = 3 ∧ ∃ e, decodeCmd w = .error e) ∨
    (t.ERRCODE = 4 ∧ ((s.MODE = .done ∧ ((∃ c, decodeCmd w = .ok (.push c)) ∨ decodeCmd w = .ok .hash)) ∨
      (s.MODE = .load ∧ ((∃ i, decodeCmd w = .ok (.rdhex i)) ∨ ∃ i, decodeCmd w = .ok (.rdh i))))) ∨
    (t.ERRCODE = 5 ∧ s.MODE = .load ∧ s.MLEN = s.msgMax.val ∧
      ∃ c, decodeCmd w = .ok (.push c) ∧ c.toNat ≤ 255)

/-- 60_exceptions.md R218: the order of the checks, and the spec's three examples. -/
def Obligations.FaultPriority : Prop :=
  ∀ (s : State),
    (∀ w, s.MODE = .error → decodeCmd w ≠ .ok .clr → decodeCmd w ≠ .ok .rdstat →
      issueCmd w s = .next s.noResponse) ∧
    (∀ w e, s.MODE ≠ .error → decodeCmd w = .error e → issueCmd w s = .next (s.raise .illegalCommand)) ∧
    (∀ w c, s.MODE = .done → decodeCmd w = .ok (.push c) → issueCmd w s = .next (s.raise .sequenceError)) ∧
    (∀ w c, s.MODE = .load → decodeCmd w = .ok (.push c) → 255 < c.toNat →
      issueCmd w s = .next (s.raise .invalidInputEncoding)) ∧
    (∀ w c, s.MODE = .load → decodeCmd w = .ok (.push c) → c.toNat ≤ 255 → s.MLEN = s.msgMax.val →
      issueCmd w s = .next (s.raise .messageCapacity)) ∧
    (s.MODE = .done → issueCmd 0x02000100 s = .next (s.raise .sequenceError)) ∧
    (s.MODE = .load → s.MLEN = s.msgMax.val → issueCmd 0x02000100 s = .next (s.raise .invalidInputEncoding)) ∧
    (s.MODE ≠ .error → issueCmd 0x02FF0100 s = .next (s.raise .illegalCommand))

/-- 60_exceptions.md R217: while `MODE = ERROR`, `CLR` is performed, `RDSTAT` responds with `STATUS`, and every other
command word, legal or illegal, changes nothing and gives no response. -/
def Obligations.ErrorModeIgnores : Prop :=
  ∀ (s : State) (w : BitVec 32), s.MODE = .error →
    (decodeCmd w = .ok .clr → issueCmd w s = .next s.clear) ∧
    (decodeCmd w = .ok .rdstat → issueCmd w s = .next { s with resp := some s.status }) ∧
    (decodeCmd w ≠ .ok .clr → decodeCmd w ≠ .ok .rdstat → issueCmd w s = .next { s with resp := none })

/-- 10_state.md R30: the only changes of mode, over every step of the machine, bench events among them; mode `ERROR` ignores
everything but `CLR` and `RDSTAT`; mode `DONE` is entered with the digest of the message. -/
def Obligations.ModeTransitions : Prop :=
  ∀ (s t : State) (e : Event) (rest : List Event), s.stream = e :: rest → step s = .next t →
    (e = .rst → t.MODE = .load) ∧ (∀ w, e = .cmd w → decodeCmd w = .ok .clr → t.MODE = .load) ∧
    (∀ w, e = .cmd w → decodeCmd w = .ok .hash → s.MODE = .load → t.MODE = .done) ∧
    (∀ w, e = .cmd w → s.MODE = .error → decodeCmd w ≠ .ok .clr → decodeCmd w ≠ .ok .rdstat →
      t = { s with stream := rest, resp := none }) ∧
    (∀ w, e = .cmd w → s.MODE = .load → t.MODE = .done → t.H = digestState s.message ∧ t.DIGEST = hexString t.H) ∧
    (s.MODE ≠ t.MODE →
      (e = .rst ∧ t.MODE = .load) ∨
      (∃ w, e = .cmd w ∧ decodeCmd w = .ok .clr ∧ t.MODE = .load) ∨
      (∃ w, e = .cmd w ∧ decodeCmd w = .ok .hash ∧ s.MODE = .load ∧ t.MODE = .done) ∨
      (∃ w, e = .cmd w ∧ s.MODE ≠ .error ∧ t.MODE = .error))

/-! ### Micro-operations: the frame -/

/-- A micro-operation that completes leaves the message and its length, every byte of memory, the mode, the fault code,
the parameter, the ports, the response and the stream as they were; only `HINIT` and `HADD` write `H`, only `RINIT` and
`ROUND` the working registers, only `WLOAD` and `WEXP` the schedule, only `BLKFETCH` the block buffer, only `HEXFMT`
the digest string, only `HINIT` and `BLKFETCH` the block counters, only `WLOAD`, `WEXP`, `RINIT` and `ROUND` the
counter `T` (10_state.md section 1). That the ports, the response and the stream are kept is the model's choice (log 6,
log 2, log 1): in the spec `WEXP` and `ROUND` use the word unit. -/
def Obligations.MicroOperationFrame : Prop :=
  ∀ (i : Instr) (s t : State), i.level = .microOperation → exec i s = .next t →
    (∀ a, Mem.read t.MSG a = Mem.read s.MSG a) ∧ t.MLEN = s.MLEN ∧ t.MODE = s.MODE ∧ t.ERRCODE = s.ERRCODE ∧
    t.msgMax = s.msgMax ∧ t.wu = s.wu ∧ t.resp = s.resp ∧ t.stream = s.stream ∧
    (i ≠ .hinit → i ≠ .hadd → t.H = s.H) ∧
    (i ≠ .rinit → (∀ k, i ≠ .round k) → t.work = s.work) ∧
    (i ≠ .wload → (∀ k, i ≠ .wexp k) → t.W = s.W) ∧
    (i ≠ .blkfetch → t.BLKBUF = s.BLKBUF) ∧ (i ≠ .hexfmt → t.DIGEST = s.DIGEST) ∧
    (i ≠ .hinit → i ≠ .blkfetch → t.BLK = s.BLK) ∧ (i ≠ .hinit → t.NBLK = s.NBLK) ∧
    (i ≠ .wload → (∀ k, i ≠ .wexp k) → i ≠ .rinit → (∀ k, i ≠ .round k) → t.T = s.T)

/-! ### The whole machine -/

/-- 20_memory.md R52: `MSG` is append-only between clears. Over every step: either the message is cleared by `CLR` or
`RST`, or no byte below `MLEN` changes and `MLEN` grows by at most one. -/
def Obligations.MessageIsAppendOnly : Prop :=
  ∀ (s t : State), step s = .next t →
    (t.MLEN = 0 ∧ t.MSG = [] ∧
      ∃ rest, s.stream = .rst :: rest ∨ ∃ w, s.stream = .cmd w :: rest ∧ decodeCmd w = .ok .clr) ∨
    (t.MLEN = s.MLEN ∧ t.MSG = s.MSG) ∨
    (∃ w c rest, s.stream = .cmd w :: rest ∧ decodeCmd w = .ok (.push c) ∧ t.MLEN = s.MLEN + 1 ∧
      Mem.read t.MSG s.MLEN = some (c.extractLsb' 0 8) ∧ ∀ a, a ≠ s.MLEN → Mem.read t.MSG a = Mem.read s.MSG a)

/-- Every step keeps the engine's invariant (10_state.md section 10): the message memory in its canonical form with
exactly the bytes below `MLEN` written and `MLEN <= MSG_MAX_BYTES`, the fault code of the mode, `T <= 64`. -/
def Obligations.StepKeepsEngineInvariant : Prop :=
  ∀ s t : State, EngineInv s → step s = .next t → EngineInv t

/-- Every step of the spec's host keeps the whole invariant (10_state.md section 10): in mode `DONE`, `H` is the digest
state of the message in memory and `DIGEST` its rendering. -/
def Obligations.StepKeepsDigestInvariant : Prop :=
  ∀ s t : State, HostInv s → step s = .next t → HostInv t

/-- The reset state meets both invariants (10_state.md section 10). -/
def Obligations.ResetMeetsInvariants : Prop := EngineInv State.reset ∧ HostInv State.reset

/-- From every state of the invariant, every event of the spec's host has a next state: the engine is never stuck
(60_exceptions.md section 3, 00_scope.md section 5). -/
def Obligations.HostNeverStops : Prop :=
  ∀ s : State, EngineInv s → HostDriven s → ∃ t, step s = .next t

/-- The digest is a function of the message alone: two states in mode `LOAD` with the same message, whatever else they
hold, have the same `H` and `DIGEST` after `HASH` (00_scope.md section 5; an earlier message, digest or fault cannot
leak). -/
def Obligations.DigestDependsOnMessageOnly : Prop :=
  ∀ s s' t t' : State, s.MODE = .load → s'.MODE = .load → s.message = s'.message →
    exec .hash s = .next t → exec .hash s' = .next t' → t.H = t'.H ∧ t.DIGEST = t'.DIGEST

/-- The pseudo-instruction `SHA256` (30_encoding.md section 7): from any state, in any mode, its commands clear the
engine, push the text, hash it, and their last 64 responses are the character codes of the digest of the text
(00_scope.md section 1: "from a sequence of character codes 0 to 255" to "a 64-character lowercase hex string"). The stream the commands stand on and the responses' place in the state are the
model's choice (log 1, log 2). -/
def Obligations.Sha256PseudoInstruction : Prop :=
  ∀ (s : State) (m : List Byte) (rest : List Event), m.length ≤ s.msgMax.val →
    s.stream = hostEvents (sha256Commands (m.map fun b => b.zeroExtend 16)) ++ rest →
    ∃ t : State, runResponses (m.length + 66) s =
      some (t, List.replicate (m.length + 2) none ++
        (sha256 m).toList.map fun b => some (b.zeroExtend 32)) ∧
      t.stream = rest ∧ t.MODE = .done
end

