-- ==== Sys2Proof/Laws/Memory.lean ====
section
/-! SUPPORT. The laws of message memory: reading after writing, and that every memory operation keeps the canonical
form. -/

namespace Sys2Proof.Machine

/-- A write is read back at its index. -/
@[simp] theorem Mem.read_write_same (m : List Host.Cell) (a : Nat) (b : Byte) :
    Mem.read (Mem.write m a b) a = some b := by
  induction m with
  | nil => simp [Mem.write, Mem.read]
  | cons c rest ih =>
    obtain ⟨k, v⟩ := c
    unfold Mem.write
    split
    · simp [Mem.read]
    · split
      · simp [Mem.read]
      · simp_all [Mem.read]

/-- A write leaves every other index alone. -/
theorem Mem.read_write_other (m : List Host.Cell) {a i : Nat} (b : Byte) (h : i ≠ a) :
    Mem.read (Mem.write m a b) i = Mem.read m i := by
  induction m with
  | nil => simp [Mem.write, Mem.read, h]
  | cons c rest ih =>
    obtain ⟨k, v⟩ := c
    unfold Mem.write
    split
    · simp [Mem.read, h]
    · split
      · rename_i _ hak
        subst hak
        simp [Mem.read, h]
      · by_cases hik : i = k <;> simp [Mem.read, hik, ih]

/-- The canonical form, as a fact about the first entry and the rest. -/
theorem Mem.wf_cons (k : Nat) (v : Byte) (rest : List Host.Cell) :
    Mem.wf ((k, v) :: rest) = true ↔ (∀ c ∈ rest.head?, k < c.1) ∧ Mem.wf rest = true := by
  cases rest with
  | nil => simp [Mem.wf]
  | cons c rest => obtain ⟨k', v'⟩ := c; simp [Mem.wf]

/-- The first index of a memory after a write is the written one or was the first before. -/
theorem Mem.head_write (m : List Host.Cell) (a : Nat) (b : Byte) {c : Host.Cell}
    (h : c ∈ (Mem.write m a b).head?) : c.1 = a ∨ ∃ d ∈ m.head?, c.1 = d.1 := by
  cases m with
  | nil => simp [Mem.write] at h; simp [← h]
  | cons d rest =>
    obtain ⟨k, v⟩ := d
    unfold Mem.write at h
    split at h
    · simp at h; simp [← h]
    · split at h <;> simp at h <;> simp [← h]

/-- A write keeps the canonical form. -/
theorem Mem.wf_write {m : List Host.Cell} (a : Nat) (b : Byte) (h : Mem.wf m = true) :
    Mem.wf (Mem.write m a b) = true := by
  induction m with
  | nil => rfl
  | cons c rest ih =>
    obtain ⟨k, v⟩ := c
    rw [Mem.wf_cons] at h
    unfold Mem.write
    split
    · rename_i hak
      rw [Mem.wf_cons, Mem.wf_cons]
      exact ⟨by simpa using hak, h⟩
    · split
      · rename_i _ hak
        subst hak
        rw [Mem.wf_cons]
        exact h
      · rename_i hlt hne
        rw [Mem.wf_cons]
        refine ⟨fun c hc => ?_, ih h.2⟩
        rcases Mem.head_write rest a b hc with hca | ⟨d, hd, hcd⟩
        · omega
        · have := h.1 d hd
          omega

/-- The memory of the reset state is in canonical form. -/
theorem Mem.wf_reset : Mem.wf State.reset.MSG = true := rfl

/-- An index beyond the first of a canonical memory is not the first. -/
theorem State.msgByte_append_other (s : State) (c : BitVec 16) {i : Nat} (h : i ≠ s.MLEN) :
    (s.append c).msgByte i = s.msgByte i := by
  simp [State.msgByte, State.append, State.memWrite, Mem.read_write_other _ _ h]

/-- The byte that `PUSH` appends is read at the old length. -/
@[simp] theorem State.msgByte_append_same (s : State) (c : BitVec 16) :
    (s.append c).msgByte s.MLEN = byteOfCode c := by
  simp [State.msgByte, State.append, State.memWrite]

/-- The message after an append is the message before with one byte more. -/
theorem State.message_append (s : State) (c : BitVec 16) :
    (s.append c).message = s.message ++ [byteOfCode c] := by
  have hl : (s.append c).MLEN = s.MLEN + 1 := rfl
  rw [State.message, hl, List.range_succ, List.map_append, State.message]
  congr 1
  · exact List.map_congr_left fun i hi => State.msgByte_append_other s c (by simp at hi; omega)
  · simp

end Sys2Proof.Machine
end

