-- ==== Sys2Proof/Laws/State.lean ====
section
/-! SUPPORT. One lemma per field per named update of the state, each true by definition
(for `wload` and `hexfmt` said to `simp`, which is quicker than asking for `rfl`): later proofs rewrite with
these and unfold no update. -/

namespace Sys2Proof.Machine

variable (s : State)

@[simp] theorem State.raise_H (f : FaultName) : (s.raise f).H = s.H := rfl
@[simp] theorem State.raise_work (f : FaultName) : (s.raise f).work = s.work := rfl
@[simp] theorem State.raise_W (f : FaultName) : (s.raise f).W = s.W := rfl
@[simp] theorem State.raise_BLKBUF (f : FaultName) : (s.raise f).BLKBUF = s.BLKBUF := rfl
@[simp] theorem State.raise_MSG (f : FaultName) : (s.raise f).MSG = s.MSG := rfl
@[simp] theorem State.raise_MLEN (f : FaultName) : (s.raise f).MLEN = s.MLEN := rfl
@[simp] theorem State.raise_DIGEST (f : FaultName) : (s.raise f).DIGEST = s.DIGEST := rfl
@[simp] theorem State.raise_MODE (f : FaultName) : (s.raise f).MODE = .error := rfl
@[simp] theorem State.raise_ERRCODE (f : FaultName) : (s.raise f).ERRCODE = faultCode f := rfl
@[simp] theorem State.raise_BLK (f : FaultName) : (s.raise f).BLK = s.BLK := rfl
@[simp] theorem State.raise_NBLK (f : FaultName) : (s.raise f).NBLK = s.NBLK := rfl
@[simp] theorem State.raise_T (f : FaultName) : (s.raise f).T = s.T := rfl
@[simp] theorem State.raise_msgMax (f : FaultName) : (s.raise f).msgMax = s.msgMax := rfl
@[simp] theorem State.raise_wu (f : FaultName) : (s.raise f).wu = s.wu := rfl
@[simp] theorem State.raise_resp (f : FaultName) : (s.raise f).resp = none := rfl
@[simp] theorem State.raise_stream (f : FaultName) : (s.raise f).stream = s.stream := rfl

@[simp] theorem State.noResponse_H : s.noResponse.H = s.H := rfl
@[simp] theorem State.noResponse_work : s.noResponse.work = s.work := rfl
@[simp] theorem State.noResponse_W : s.noResponse.W = s.W := rfl
@[simp] theorem State.noResponse_BLKBUF : s.noResponse.BLKBUF = s.BLKBUF := rfl
@[simp] theorem State.noResponse_MSG : s.noResponse.MSG = s.MSG := rfl
@[simp] theorem State.noResponse_MLEN : s.noResponse.MLEN = s.MLEN := rfl
@[simp] theorem State.noResponse_DIGEST : s.noResponse.DIGEST = s.DIGEST := rfl
@[simp] theorem State.noResponse_MODE : s.noResponse.MODE = s.MODE := rfl
@[simp] theorem State.noResponse_ERRCODE : s.noResponse.ERRCODE = s.ERRCODE := rfl
@[simp] theorem State.noResponse_BLK : s.noResponse.BLK = s.BLK := rfl
@[simp] theorem State.noResponse_NBLK : s.noResponse.NBLK = s.NBLK := rfl
@[simp] theorem State.noResponse_T : s.noResponse.T = s.T := rfl
@[simp] theorem State.noResponse_msgMax : s.noResponse.msgMax = s.msgMax := rfl
@[simp] theorem State.noResponse_wu : s.noResponse.wu = s.wu := rfl
@[simp] theorem State.noResponse_resp : s.noResponse.resp = none := rfl
@[simp] theorem State.noResponse_stream : s.noResponse.stream = s.stream := rfl

@[simp] theorem State.respond_H (v : Word) : (s.respond v).H = s.H := rfl
@[simp] theorem State.respond_work (v : Word) : (s.respond v).work = s.work := rfl
@[simp] theorem State.respond_W (v : Word) : (s.respond v).W = s.W := rfl
@[simp] theorem State.respond_BLKBUF (v : Word) : (s.respond v).BLKBUF = s.BLKBUF := rfl
@[simp] theorem State.respond_MSG (v : Word) : (s.respond v).MSG = s.MSG := rfl
@[simp] theorem State.respond_MLEN (v : Word) : (s.respond v).MLEN = s.MLEN := rfl
@[simp] theorem State.respond_DIGEST (v : Word) : (s.respond v).DIGEST = s.DIGEST := rfl
@[simp] theorem State.respond_MODE (v : Word) : (s.respond v).MODE = s.MODE := rfl
@[simp] theorem State.respond_ERRCODE (v : Word) : (s.respond v).ERRCODE = s.ERRCODE := rfl
@[simp] theorem State.respond_BLK (v : Word) : (s.respond v).BLK = s.BLK := rfl
@[simp] theorem State.respond_NBLK (v : Word) : (s.respond v).NBLK = s.NBLK := rfl
@[simp] theorem State.respond_T (v : Word) : (s.respond v).T = s.T := rfl
@[simp] theorem State.respond_msgMax (v : Word) : (s.respond v).msgMax = s.msgMax := rfl
@[simp] theorem State.respond_wu (v : Word) : (s.respond v).wu = s.wu := rfl
@[simp] theorem State.respond_resp (v : Word) : (s.respond v).resp = some v := rfl
@[simp] theorem State.respond_stream (v : Word) : (s.respond v).stream = s.stream := rfl

@[simp] theorem State.memWrite_H (a : Nat) (v : Byte) : (s.memWrite a v).H = s.H := rfl
@[simp] theorem State.memWrite_work (a : Nat) (v : Byte) : (s.memWrite a v).work = s.work := rfl
@[simp] theorem State.memWrite_W (a : Nat) (v : Byte) : (s.memWrite a v).W = s.W := rfl
@[simp] theorem State.memWrite_BLKBUF (a : Nat) (v : Byte) : (s.memWrite a v).BLKBUF = s.BLKBUF := rfl
@[simp] theorem State.memWrite_MSG (a : Nat) (v : Byte) : (s.memWrite a v).MSG = Mem.write s.MSG a v := rfl
@[simp] theorem State.memWrite_MLEN (a : Nat) (v : Byte) : (s.memWrite a v).MLEN = s.MLEN := rfl
@[simp] theorem State.memWrite_DIGEST (a : Nat) (v : Byte) : (s.memWrite a v).DIGEST = s.DIGEST := rfl
@[simp] theorem State.memWrite_MODE (a : Nat) (v : Byte) : (s.memWrite a v).MODE = s.MODE := rfl
@[simp] theorem State.memWrite_ERRCODE (a : Nat) (v : Byte) : (s.memWrite a v).ERRCODE = s.ERRCODE := rfl
@[simp] theorem State.memWrite_BLK (a : Nat) (v : Byte) : (s.memWrite a v).BLK = s.BLK := rfl
@[simp] theorem State.memWrite_NBLK (a : Nat) (v : Byte) : (s.memWrite a v).NBLK = s.NBLK := rfl
@[simp] theorem State.memWrite_T (a : Nat) (v : Byte) : (s.memWrite a v).T = s.T := rfl
@[simp] theorem State.memWrite_msgMax (a : Nat) (v : Byte) : (s.memWrite a v).msgMax = s.msgMax := rfl
@[simp] theorem State.memWrite_wu (a : Nat) (v : Byte) : (s.memWrite a v).wu = s.wu := rfl
@[simp] theorem State.memWrite_resp (a : Nat) (v : Byte) : (s.memWrite a v).resp = s.resp := rfl
@[simp] theorem State.memWrite_stream (a : Nat) (v : Byte) : (s.memWrite a v).stream = s.stream := rfl

@[simp] theorem State.append_H (c : BitVec 16) : (s.append c).H = s.H := rfl
@[simp] theorem State.append_work (c : BitVec 16) : (s.append c).work = s.work := rfl
@[simp] theorem State.append_W (c : BitVec 16) : (s.append c).W = s.W := rfl
@[simp] theorem State.append_BLKBUF (c : BitVec 16) : (s.append c).BLKBUF = s.BLKBUF := rfl
@[simp] theorem State.append_MSG (c : BitVec 16) : (s.append c).MSG = Mem.write s.MSG s.MLEN (byteOfCode c) := rfl
@[simp] theorem State.append_MLEN (c : BitVec 16) : (s.append c).MLEN = s.MLEN + 1 := rfl
@[simp] theorem State.append_DIGEST (c : BitVec 16) : (s.append c).DIGEST = s.DIGEST := rfl
@[simp] theorem State.append_MODE (c : BitVec 16) : (s.append c).MODE = s.MODE := rfl
@[simp] theorem State.append_ERRCODE (c : BitVec 16) : (s.append c).ERRCODE = s.ERRCODE := rfl
@[simp] theorem State.append_BLK (c : BitVec 16) : (s.append c).BLK = s.BLK := rfl
@[simp] theorem State.append_NBLK (c : BitVec 16) : (s.append c).NBLK = s.NBLK := rfl
@[simp] theorem State.append_T (c : BitVec 16) : (s.append c).T = s.T := rfl
@[simp] theorem State.append_msgMax (c : BitVec 16) : (s.append c).msgMax = s.msgMax := rfl
@[simp] theorem State.append_wu (c : BitVec 16) : (s.append c).wu = s.wu := rfl
@[simp] theorem State.append_resp (c : BitVec 16) : (s.append c).resp = none := rfl
@[simp] theorem State.append_stream (c : BitVec 16) : (s.append c).stream = s.stream := rfl

@[simp] theorem State.result_H (r : Word) : (s.result r).H = s.H := rfl
@[simp] theorem State.result_work (r : Word) : (s.result r).work = s.work := rfl
@[simp] theorem State.result_W (r : Word) : (s.result r).W = s.W := rfl
@[simp] theorem State.result_BLKBUF (r : Word) : (s.result r).BLKBUF = s.BLKBUF := rfl
@[simp] theorem State.result_MSG (r : Word) : (s.result r).MSG = s.MSG := rfl
@[simp] theorem State.result_MLEN (r : Word) : (s.result r).MLEN = s.MLEN := rfl
@[simp] theorem State.result_DIGEST (r : Word) : (s.result r).DIGEST = s.DIGEST := rfl
@[simp] theorem State.result_MODE (r : Word) : (s.result r).MODE = s.MODE := rfl
@[simp] theorem State.result_ERRCODE (r : Word) : (s.result r).ERRCODE = s.ERRCODE := rfl
@[simp] theorem State.result_BLK (r : Word) : (s.result r).BLK = s.BLK := rfl
@[simp] theorem State.result_NBLK (r : Word) : (s.result r).NBLK = s.NBLK := rfl
@[simp] theorem State.result_T (r : Word) : (s.result r).T = s.T := rfl
@[simp] theorem State.result_msgMax (r : Word) : (s.result r).msgMax = s.msgMax := rfl
@[simp] theorem State.result_wu (r : Word) : (s.result r).wu = { s.wu with r := r } := rfl
@[simp] theorem State.result_resp (r : Word) : (s.result r).resp = s.resp := rfl
@[simp] theorem State.result_stream (r : Word) : (s.result r).stream = s.stream := rfl

@[simp] theorem State.drive_H (x y z : Word) : (s.drive x y z).H = s.H := rfl
@[simp] theorem State.drive_work (x y z : Word) : (s.drive x y z).work = s.work := rfl
@[simp] theorem State.drive_W (x y z : Word) : (s.drive x y z).W = s.W := rfl
@[simp] theorem State.drive_BLKBUF (x y z : Word) : (s.drive x y z).BLKBUF = s.BLKBUF := rfl
@[simp] theorem State.drive_MSG (x y z : Word) : (s.drive x y z).MSG = s.MSG := rfl
@[simp] theorem State.drive_MLEN (x y z : Word) : (s.drive x y z).MLEN = s.MLEN := rfl
@[simp] theorem State.drive_DIGEST (x y z : Word) : (s.drive x y z).DIGEST = s.DIGEST := rfl
@[simp] theorem State.drive_MODE (x y z : Word) : (s.drive x y z).MODE = s.MODE := rfl
@[simp] theorem State.drive_ERRCODE (x y z : Word) : (s.drive x y z).ERRCODE = s.ERRCODE := rfl
@[simp] theorem State.drive_BLK (x y z : Word) : (s.drive x y z).BLK = s.BLK := rfl
@[simp] theorem State.drive_NBLK (x y z : Word) : (s.drive x y z).NBLK = s.NBLK := rfl
@[simp] theorem State.drive_T (x y z : Word) : (s.drive x y z).T = s.T := rfl
@[simp] theorem State.drive_msgMax (x y z : Word) : (s.drive x y z).msgMax = s.msgMax := rfl
@[simp] theorem State.drive_wu (x y z : Word) : (s.drive x y z).wu = { s.wu with x := x, y := y, z := z } := rfl
@[simp] theorem State.drive_resp (x y z : Word) : (s.drive x y z).resp = s.resp := rfl
@[simp] theorem State.drive_stream (x y z : Word) : (s.drive x y z).stream = s.stream := rfl

@[simp] theorem State.take_H (rest : List Event) : (s.take rest).H = s.H := rfl
@[simp] theorem State.take_work (rest : List Event) : (s.take rest).work = s.work := rfl
@[simp] theorem State.take_W (rest : List Event) : (s.take rest).W = s.W := rfl
@[simp] theorem State.take_BLKBUF (rest : List Event) : (s.take rest).BLKBUF = s.BLKBUF := rfl
@[simp] theorem State.take_MSG (rest : List Event) : (s.take rest).MSG = s.MSG := rfl
@[simp] theorem State.take_MLEN (rest : List Event) : (s.take rest).MLEN = s.MLEN := rfl
@[simp] theorem State.take_DIGEST (rest : List Event) : (s.take rest).DIGEST = s.DIGEST := rfl
@[simp] theorem State.take_MODE (rest : List Event) : (s.take rest).MODE = s.MODE := rfl
@[simp] theorem State.take_ERRCODE (rest : List Event) : (s.take rest).ERRCODE = s.ERRCODE := rfl
@[simp] theorem State.take_BLK (rest : List Event) : (s.take rest).BLK = s.BLK := rfl
@[simp] theorem State.take_NBLK (rest : List Event) : (s.take rest).NBLK = s.NBLK := rfl
@[simp] theorem State.take_T (rest : List Event) : (s.take rest).T = s.T := rfl
@[simp] theorem State.take_msgMax (rest : List Event) : (s.take rest).msgMax = s.msgMax := rfl
@[simp] theorem State.take_wu (rest : List Event) : (s.take rest).wu = s.wu := rfl
@[simp] theorem State.take_resp (rest : List Event) : (s.take rest).resp = none := rfl
@[simp] theorem State.take_stream (rest : List Event) : (s.take rest).stream = rest := rfl

@[simp] theorem State.hinit_H : s.hinit.H = IV := rfl
@[simp] theorem State.hinit_work : s.hinit.work = s.work := rfl
@[simp] theorem State.hinit_W : s.hinit.W = s.W := rfl
@[simp] theorem State.hinit_BLKBUF : s.hinit.BLKBUF = s.BLKBUF := rfl
@[simp] theorem State.hinit_MSG : s.hinit.MSG = s.MSG := rfl
@[simp] theorem State.hinit_MLEN : s.hinit.MLEN = s.MLEN := rfl
@[simp] theorem State.hinit_DIGEST : s.hinit.DIGEST = s.DIGEST := rfl
@[simp] theorem State.hinit_MODE : s.hinit.MODE = s.MODE := rfl
@[simp] theorem State.hinit_ERRCODE : s.hinit.ERRCODE = s.ERRCODE := rfl
@[simp] theorem State.hinit_BLK : s.hinit.BLK = 0 := rfl
@[simp] theorem State.hinit_NBLK : s.hinit.NBLK = blockCount s.MLEN := rfl
@[simp] theorem State.hinit_T : s.hinit.T = s.T := rfl
@[simp] theorem State.hinit_msgMax : s.hinit.msgMax = s.msgMax := rfl
@[simp] theorem State.hinit_wu : s.hinit.wu = s.wu := rfl
@[simp] theorem State.hinit_resp : s.hinit.resp = s.resp := rfl
@[simp] theorem State.hinit_stream : s.hinit.stream = s.stream := rfl

@[simp] theorem State.blkfetch_H : s.blkfetch.H = s.H := rfl
@[simp] theorem State.blkfetch_work : s.blkfetch.work = s.work := rfl
@[simp] theorem State.blkfetch_W : s.blkfetch.W = s.W := rfl
@[simp] theorem State.blkfetch_BLKBUF : s.blkfetch.BLKBUF = s.fetchedBlock := rfl
@[simp] theorem State.blkfetch_MSG : s.blkfetch.MSG = s.MSG := rfl
@[simp] theorem State.blkfetch_MLEN : s.blkfetch.MLEN = s.MLEN := rfl
@[simp] theorem State.blkfetch_DIGEST : s.blkfetch.DIGEST = s.DIGEST := rfl
@[simp] theorem State.blkfetch_MODE : s.blkfetch.MODE = s.MODE := rfl
@[simp] theorem State.blkfetch_ERRCODE : s.blkfetch.ERRCODE = s.ERRCODE := rfl
@[simp] theorem State.blkfetch_BLK : s.blkfetch.BLK = s.BLK + 1 := rfl
@[simp] theorem State.blkfetch_NBLK : s.blkfetch.NBLK = s.NBLK := rfl
@[simp] theorem State.blkfetch_T : s.blkfetch.T = s.T := rfl
@[simp] theorem State.blkfetch_msgMax : s.blkfetch.msgMax = s.msgMax := rfl
@[simp] theorem State.blkfetch_wu : s.blkfetch.wu = s.wu := rfl
@[simp] theorem State.blkfetch_resp : s.blkfetch.resp = s.resp := rfl
@[simp] theorem State.blkfetch_stream : s.blkfetch.stream = s.stream := rfl

@[simp] theorem State.wload_H : s.wload.H = s.H := by simp only [State.wload]
@[simp] theorem State.wload_work : s.wload.work = s.work := by simp only [State.wload]
@[simp] theorem State.wload_W : s.wload.W = loadSchedule s.BLKBUF s.W := by simp only [State.wload]
@[simp] theorem State.wload_BLKBUF : s.wload.BLKBUF = s.BLKBUF := by simp only [State.wload]
@[simp] theorem State.wload_MSG : s.wload.MSG = s.MSG := by simp only [State.wload]
@[simp] theorem State.wload_MLEN : s.wload.MLEN = s.MLEN := by simp only [State.wload]
@[simp] theorem State.wload_DIGEST : s.wload.DIGEST = s.DIGEST := by simp only [State.wload]
@[simp] theorem State.wload_MODE : s.wload.MODE = s.MODE := by simp only [State.wload]
@[simp] theorem State.wload_ERRCODE : s.wload.ERRCODE = s.ERRCODE := by simp only [State.wload]
@[simp] theorem State.wload_BLK : s.wload.BLK = s.BLK := by simp only [State.wload]
@[simp] theorem State.wload_NBLK : s.wload.NBLK = s.NBLK := by simp only [State.wload]
@[simp] theorem State.wload_T : s.wload.T = 16 := by simp only [State.wload]
@[simp] theorem State.wload_msgMax : s.wload.msgMax = s.msgMax := by simp only [State.wload]
@[simp] theorem State.wload_wu : s.wload.wu = s.wu := by simp only [State.wload]
@[simp] theorem State.wload_resp : s.wload.resp = s.resp := by simp only [State.wload]
@[simp] theorem State.wload_stream : s.wload.stream = s.stream := by simp only [State.wload]

@[simp] theorem State.wexp_H (i : Fin 64) : (s.wexp i).H = s.H := rfl
@[simp] theorem State.wexp_work (i : Fin 64) : (s.wexp i).work = s.work := rfl
@[simp] theorem State.wexp_W (i : Fin 64) : (s.wexp i).W = expandSchedule s.W i := rfl
@[simp] theorem State.wexp_BLKBUF (i : Fin 64) : (s.wexp i).BLKBUF = s.BLKBUF := rfl
@[simp] theorem State.wexp_MSG (i : Fin 64) : (s.wexp i).MSG = s.MSG := rfl
@[simp] theorem State.wexp_MLEN (i : Fin 64) : (s.wexp i).MLEN = s.MLEN := rfl
@[simp] theorem State.wexp_DIGEST (i : Fin 64) : (s.wexp i).DIGEST = s.DIGEST := rfl
@[simp] theorem State.wexp_MODE (i : Fin 64) : (s.wexp i).MODE = s.MODE := rfl
@[simp] theorem State.wexp_ERRCODE (i : Fin 64) : (s.wexp i).ERRCODE = s.ERRCODE := rfl
@[simp] theorem State.wexp_BLK (i : Fin 64) : (s.wexp i).BLK = s.BLK := rfl
@[simp] theorem State.wexp_NBLK (i : Fin 64) : (s.wexp i).NBLK = s.NBLK := rfl
@[simp] theorem State.wexp_T (i : Fin 64) : (s.wexp i).T = i.val + 1 := rfl
@[simp] theorem State.wexp_msgMax (i : Fin 64) : (s.wexp i).msgMax = s.msgMax := rfl
@[simp] theorem State.wexp_wu (i : Fin 64) : (s.wexp i).wu = s.wu := rfl
@[simp] theorem State.wexp_resp (i : Fin 64) : (s.wexp i).resp = s.resp := rfl
@[simp] theorem State.wexp_stream (i : Fin 64) : (s.wexp i).stream = s.stream := rfl

@[simp] theorem State.rinit_H : s.rinit.H = s.H := rfl
@[simp] theorem State.rinit_work : s.rinit.work = workOf s.H := rfl
@[simp] theorem State.rinit_W : s.rinit.W = s.W := rfl
@[simp] theorem State.rinit_BLKBUF : s.rinit.BLKBUF = s.BLKBUF := rfl
@[simp] theorem State.rinit_MSG : s.rinit.MSG = s.MSG := rfl
@[simp] theorem State.rinit_MLEN : s.rinit.MLEN = s.MLEN := rfl
@[simp] theorem State.rinit_DIGEST : s.rinit.DIGEST = s.DIGEST := rfl
@[simp] theorem State.rinit_MODE : s.rinit.MODE = s.MODE := rfl
@[simp] theorem State.rinit_ERRCODE : s.rinit.ERRCODE = s.ERRCODE := rfl
@[simp] theorem State.rinit_BLK : s.rinit.BLK = s.BLK := rfl
@[simp] theorem State.rinit_NBLK : s.rinit.NBLK = s.NBLK := rfl
@[simp] theorem State.rinit_T : s.rinit.T = 0 := rfl
@[simp] theorem State.rinit_msgMax : s.rinit.msgMax = s.msgMax := rfl
@[simp] theorem State.rinit_wu : s.rinit.wu = s.wu := rfl
@[simp] theorem State.rinit_resp : s.rinit.resp = s.resp := rfl
@[simp] theorem State.rinit_stream : s.rinit.stream = s.stream := rfl

@[simp] theorem State.round_H (i : Fin 64) : (s.round i).H = s.H := rfl
@[simp] theorem State.round_work (i : Fin 64) : (s.round i).work = roundWork K[i] s.W[i] s.work := rfl
@[simp] theorem State.round_W (i : Fin 64) : (s.round i).W = s.W := rfl
@[simp] theorem State.round_BLKBUF (i : Fin 64) : (s.round i).BLKBUF = s.BLKBUF := rfl
@[simp] theorem State.round_MSG (i : Fin 64) : (s.round i).MSG = s.MSG := rfl
@[simp] theorem State.round_MLEN (i : Fin 64) : (s.round i).MLEN = s.MLEN := rfl
@[simp] theorem State.round_DIGEST (i : Fin 64) : (s.round i).DIGEST = s.DIGEST := rfl
@[simp] theorem State.round_MODE (i : Fin 64) : (s.round i).MODE = s.MODE := rfl
@[simp] theorem State.round_ERRCODE (i : Fin 64) : (s.round i).ERRCODE = s.ERRCODE := rfl
@[simp] theorem State.round_BLK (i : Fin 64) : (s.round i).BLK = s.BLK := rfl
@[simp] theorem State.round_NBLK (i : Fin 64) : (s.round i).NBLK = s.NBLK := rfl
@[simp] theorem State.round_T (i : Fin 64) : (s.round i).T = i.val + 1 := rfl
@[simp] theorem State.round_msgMax (i : Fin 64) : (s.round i).msgMax = s.msgMax := rfl
@[simp] theorem State.round_wu (i : Fin 64) : (s.round i).wu = s.wu := rfl
@[simp] theorem State.round_resp (i : Fin 64) : (s.round i).resp = s.resp := rfl
@[simp] theorem State.round_stream (i : Fin 64) : (s.round i).stream = s.stream := rfl

@[simp] theorem State.hadd_H : s.hadd.H = addBack s.H s.work := rfl
@[simp] theorem State.hadd_work : s.hadd.work = s.work := rfl
@[simp] theorem State.hadd_W : s.hadd.W = s.W := rfl
@[simp] theorem State.hadd_BLKBUF : s.hadd.BLKBUF = s.BLKBUF := rfl
@[simp] theorem State.hadd_MSG : s.hadd.MSG = s.MSG := rfl
@[simp] theorem State.hadd_MLEN : s.hadd.MLEN = s.MLEN := rfl
@[simp] theorem State.hadd_DIGEST : s.hadd.DIGEST = s.DIGEST := rfl
@[simp] theorem State.hadd_MODE : s.hadd.MODE = s.MODE := rfl
@[simp] theorem State.hadd_ERRCODE : s.hadd.ERRCODE = s.ERRCODE := rfl
@[simp] theorem State.hadd_BLK : s.hadd.BLK = s.BLK := rfl
@[simp] theorem State.hadd_NBLK : s.hadd.NBLK = s.NBLK := rfl
@[simp] theorem State.hadd_T : s.hadd.T = s.T := rfl
@[simp] theorem State.hadd_msgMax : s.hadd.msgMax = s.msgMax := rfl
@[simp] theorem State.hadd_wu : s.hadd.wu = s.wu := rfl
@[simp] theorem State.hadd_resp : s.hadd.resp = s.resp := rfl
@[simp] theorem State.hadd_stream : s.hadd.stream = s.stream := rfl

@[simp] theorem State.hexfmt_H : s.hexfmt.H = s.H := by simp only [State.hexfmt]
@[simp] theorem State.hexfmt_work : s.hexfmt.work = s.work := by simp only [State.hexfmt]
@[simp] theorem State.hexfmt_W : s.hexfmt.W = s.W := by simp only [State.hexfmt]
@[simp] theorem State.hexfmt_BLKBUF : s.hexfmt.BLKBUF = s.BLKBUF := by simp only [State.hexfmt]
@[simp] theorem State.hexfmt_MSG : s.hexfmt.MSG = s.MSG := by simp only [State.hexfmt]
@[simp] theorem State.hexfmt_MLEN : s.hexfmt.MLEN = s.MLEN := by simp only [State.hexfmt]
@[simp] theorem State.hexfmt_DIGEST : s.hexfmt.DIGEST = hexString s.H := by simp only [State.hexfmt]
@[simp] theorem State.hexfmt_MODE : s.hexfmt.MODE = s.MODE := by simp only [State.hexfmt]
@[simp] theorem State.hexfmt_ERRCODE : s.hexfmt.ERRCODE = s.ERRCODE := by simp only [State.hexfmt]
@[simp] theorem State.hexfmt_BLK : s.hexfmt.BLK = s.BLK := by simp only [State.hexfmt]
@[simp] theorem State.hexfmt_NBLK : s.hexfmt.NBLK = s.NBLK := by simp only [State.hexfmt]
@[simp] theorem State.hexfmt_T : s.hexfmt.T = s.T := by simp only [State.hexfmt]
@[simp] theorem State.hexfmt_msgMax : s.hexfmt.msgMax = s.msgMax := by simp only [State.hexfmt]
@[simp] theorem State.hexfmt_wu : s.hexfmt.wu = s.wu := by simp only [State.hexfmt]
@[simp] theorem State.hexfmt_resp : s.hexfmt.resp = s.resp := by simp only [State.hexfmt]
@[simp] theorem State.hexfmt_stream : s.hexfmt.stream = s.stream := by simp only [State.hexfmt]

@[simp] theorem State.clear_MSG : s.clear.MSG = [] := rfl
@[simp] theorem State.clear_MLEN : s.clear.MLEN = 0 := rfl
@[simp] theorem State.clear_MODE : s.clear.MODE = .load := rfl
@[simp] theorem State.clear_ERRCODE : s.clear.ERRCODE = 0#4 := rfl
@[simp] theorem State.clear_resp : s.clear.resp = none := rfl
@[simp] theorem State.clear_T : s.clear.T = Config.unwrittenT.val := rfl
@[simp] theorem State.clear_msgMax : s.clear.msgMax = s.msgMax := rfl
@[simp] theorem State.clear_stream : s.clear.stream = s.stream := rfl

end Sys2Proof.Machine
end

