-- ==== Sys2Proof/Laws/Ops.lean ====
section
/-! SUPPORT. One lemma per shared operation that says once everything it can do. -/

namespace Sys2Proof.Machine

/-- The mode gate when its condition is met: the operation runs. -/
theorem State.inMode_run {s : State} {m : Mode} (run : State → Host.Outcome State Fault Refusal)
    (hm : m ≠ .error) (h : s.MODE = m) : s.inMode m run = run s := by
  subst h
  simp [State.inMode, hm]

/-- The mode gate in mode `ERROR`: the command is ignored. -/
theorem State.inMode_error {s : State} {m : Mode} (run : State → Host.Outcome State Fault Refusal)
    (h : s.MODE = .error) : s.inMode m run = .next s.noResponse := by
  simp [State.inMode, h]

/-- The mode gate in the mode that does not accept: `SequenceError`. -/
theorem State.inMode_raise {s : State} {m : Mode} (run : State → Host.Outcome State Fault Refusal)
    (he : s.MODE ≠ .error) (h : s.MODE ≠ m) : s.inMode m run = .next (s.raise .sequenceError) := by
  simp [State.inMode, he, h]

/-- All that the mode gate can do. -/
theorem State.inMode_cases {s t : State} {m : Mode} {run : State → Host.Outcome State Fault Refusal}
    (h : s.inMode m run = .next t) :
    (s.MODE = .error ∧ t = s.noResponse) ∨ (s.MODE ≠ .error ∧ s.MODE = m ∧ run s = .next t) ∨
      (s.MODE ≠ .error ∧ s.MODE ≠ m ∧ t = s.raise .sequenceError) := by
  unfold State.inMode at h
  split at h
  · exact .inl ⟨‹_›, by simpa using h.symm⟩
  · split at h
    · exact .inr (.inl ⟨‹_›, ‹_›, h⟩)
    · exact .inr (.inr ⟨‹_›, ‹_›, by simpa using h.symm⟩)

/-- The check before the message is read passes exactly on a readable message. -/
theorem State.messageFault_eq_none {s : State} : s.messageFault = none ↔ MessageReadable s := by
  unfold State.messageFault MessageReadable State.messageWritten
  split
  · rename_i h
    simp
    intro h'
    omega
  · rename_i h
    split
    · rename_i hw
      simp at hw
      simp
      exact ⟨by omega, hw⟩
    · rename_i hw
      simp at hw
      simp
      intro _
      obtain ⟨x, hx, hr⟩ := hw
      exact ⟨x, hx, hr⟩

/-- An operation on a readable message completes. -/
theorem State.withMessage_next {s : State} {op : State → State} (h : MessageReadable s) :
    s.withMessage op = .next (op s) := by
  simp [State.withMessage, State.messageFault_eq_none.mpr h]

/-- All that an operation on the message can do when it completes. -/
theorem State.withMessage_cases {s t : State} {op : State → State} (h : s.withMessage op = .next t) :
    MessageReadable s ∧ t = op s := by
  unfold State.withMessage at h
  split at h
  · cases h
  · exact ⟨State.messageFault_eq_none.mp ‹_›, by simpa using h.symm⟩

/-- The message invariant makes the message readable. -/
theorem readable_of_messageInv {s : State} (h : MessageInv s) : MessageReadable s :=
  ⟨h.2.2, fun i hi => by simp [h.2.1, hi]⟩

/-- All that `PUSH` in mode `LOAD` can do when it completes (45_host_commands.md R192). -/
theorem State.pushLoad_cases {s t : State} {c : BitVec 16} (h : s.pushLoad c = .next t) :
    (isByteCode c = false ∧ t = s.raise .invalidInputEncoding) ∨
      (isByteCode c = true ∧ s.MLEN = s.msgMax.val ∧ t = s.raise .messageCapacity) ∨
      (isByteCode c = true ∧ s.MLEN < s.msgMax.val ∧ t = s.append c) := by
  unfold State.pushLoad at h
  split at h
  · exact .inl ⟨‹_›, by simpa using h.symm⟩
  · rename_i hb
    have hb' : isByteCode c = true := by simpa using hb
    split at h
    · exact .inr (.inl ⟨hb', ‹_›, by simpa using h.symm⟩)
    · split at h
      · cases h
      · exact .inr (.inr ⟨hb', by omega, by simpa using h.symm⟩)

/-- An illegal command word: ignored in `ERROR`, else `IllegalCommand` (60_exceptions.md R212, R217). -/
theorem State.illegalWord_cases (s : State) :
    (s.MODE = .error ∧ s.illegalWord = s.noResponse) ∨
      (s.MODE ≠ .error ∧ s.illegalWord = s.raise .illegalCommand) := by
  unfold State.illegalWord
  split
  · exact .inl ⟨‹_›, rfl⟩
  · exact .inr ⟨‹_›, rfl⟩

/-- A step takes the next event (00_scope.md R9). -/
theorem step_cons {s : State} {e : Event} {rest : List Event} (h : s.stream = e :: rest) :
    step s = issue e (s.take rest) := by
  simp [step, stepEvent, h]

/-- A step with no event to come leaves the state alone (70_reset_and_hazards.md R241). -/
theorem step_nil {s : State} (h : s.stream = []) : step s = .next s := by
  simp [step, stepEvent, h]

/-- All that a step can do when it completes. -/
theorem step_cases {s t : State} (h : step s = .next t) :
    (s.stream = [] ∧ t = s) ∨ ∃ e rest, s.stream = e :: rest ∧ issue e (s.take rest) = .next t := by
  cases hs : s.stream with
  | nil => rw [step_nil hs] at h; exact .inl ⟨rfl, by simpa using h.symm⟩
  | cons e rest => rw [step_cons hs] at h; exact .inr ⟨e, rest, rfl, h⟩

/-- All that a command word can do when it completes. -/
theorem issueCmd_cases {s t : State} {w : BitVec 32} (h : issueCmd w s = .next t) :
    (∃ i, decodeCmd w = .ok i ∧ exec i s = .next t) ∨ t = s.illegalWord := by
  unfold issueCmd at h
  split at h
  · exact .inl ⟨_, ‹_›, h⟩
  · exact .inr (by simpa using h.symm)

/-- All that a `SEQ9` word on the bench can do when it completes. -/
theorem issueSeq_cases {s t : State} {w : BitVec 9} (h : issueSeq w s = .next t) :
    ∃ i, decodeSeq w = .ok i ∧ exec i s = .next t := by
  unfold issueSeq at h
  split at h
  · exact ⟨_, ‹_›, h⟩
  · cases h

/-- All that a `WU9` word on the bench can do when it completes. -/
theorem issueWu_cases {s t : State} {w : BitVec 9} (h : issueWu w s = .next t) :
    ∃ i, decodeWu w = .ok i ∧ exec i s = .next t := by
  unfold issueWu at h
  split at h
  · exact ⟨_, ‹_›, h⟩
  · cases h

/-- A host command word decodes to a host command. -/
theorem decodeCmd_level {w : BitVec 32} {i : Instr} (h : decodeCmd w = .ok i) : i.level = .hostCommand := by
  unfold decodeCmd at h
  repeat' split at h
  all_goals cases h
  all_goals rfl

/-- A micro-operation without an index, decoded. -/
theorem plainMicroOp_ok {w : BitVec 9} {i j : Instr} (h : plainMicroOp w i = .ok j) :
    field w 0 6 = 0#6 ∧ j = i := by
  unfold plainMicroOp at h
  split at h
  · exact ⟨‹_›, by simpa using h.symm⟩
  · cases h

/-- A word-unit function without an amount, decoded. -/
theorem plainFunction_ok {w : BitVec 9} {i j : Instr} (h : plainFunction w i = .ok j) :
    field w 0 5 = 0#5 ∧ j = i := by
  unfold plainFunction at h
  split at h
  · exact ⟨‹_›, by simpa using h.symm⟩
  · cases h

/-- A `SEQ9` word decodes to a micro-operation. -/
theorem decodeSeq_level {w : BitVec 9} {i : Instr} (h : decodeSeq w = .ok i) : i.level = .microOperation := by
  unfold decodeSeq at h
  split at h
  all_goals first
    | (obtain ⟨_, rfl⟩ := plainMicroOp_ok h; rfl)
    | (cases h; done)
    | (cases h; rfl)
    | (split at h <;> cases h; rfl)

/-- A `WU9` word decodes to a word-unit function. -/
theorem decodeWu_level {w : BitVec 9} {i : Instr} (h : decodeWu w = .ok i) : i.level = .wordUnitFunction := by
  unfold decodeWu at h
  split at h
  all_goals first
    | (obtain ⟨_, rfl⟩ := plainFunction_ok h; rfl)
    | (cases h; done)
    | (cases h; rfl)

end Sys2Proof.Machine
end

