-- ==== Sys2Proof/Laws/Sequencer.lean ====
section
/-! SUPPORT. What the loops of the sequencer do, field by field, so that no later proof unfolds 116 micro-operations. -/

namespace Sys2Proof.Machine

/-- A run of `WEXP` writes the schedule and `T` and nothing else. -/
theorem State.foldl_wexp (l : List (Fin 64)) (s : State) :
    l.foldl State.wexp s =
      { s with W := l.foldl expandSchedule s.W, T := l.foldl (fun _ i => i.val + 1) s.T } := by
  induction l generalizing s with
  | nil => rfl
  | cons i l ih => rw [List.foldl_cons, ih]; rfl

/-- A run of `ROUND` writes the working registers and `T` and nothing else. -/
theorem State.foldl_round (l : List (Fin 64)) (s : State) :
    l.foldl State.round s =
      { s with work := l.foldl (fun r i => roundWork K[i] s.W[i] r) s.work,
               T := l.foldl (fun _ i => i.val + 1) s.T } := by
  induction l generalizing s with
  | nil => rfl
  | cons i l ih => rw [List.foldl_cons, ih]; rfl

/-- The rounds of a block end with `T = 64`. -/
theorem foldl_roundIndices_T (t : Nat) : roundIndices.foldl (fun _ i => i.val + 1) t = 64 := by
  simp only [roundIndices, List.finRange_succ_last, List.foldl_append, List.foldl_cons, List.foldl_nil]
  rfl

/-- One iteration of the block loop, field by field. -/
theorem State.hashBlock_eq (s : State) :
    s.hashBlock = { s with
      BLKBUF := s.fetchedBlock
      BLK := s.BLK + 1
      W := expandIndices.foldl expandSchedule (loadSchedule s.fetchedBlock s.W)
      work := roundIndices.foldl (fun r i =>
        roundWork K[i] (expandIndices.foldl expandSchedule (loadSchedule s.fetchedBlock s.W))[i] r) (workOf s.H)
      H := addBack s.H (roundIndices.foldl (fun r i =>
        roundWork K[i] (expandIndices.foldl expandSchedule (loadSchedule s.fetchedBlock s.W))[i] r) (workOf s.H))
      T := 64 } := by
  unfold State.hashBlock
  simp only []
  rw [State.foldl_wexp, State.foldl_round]
  simp only [State.rinit, State.wload, State.blkfetch, State.hadd, foldl_roundIndices_T]

/-- The frame of the block loop. -/
theorem State.hashBlocks_frame (n : Nat) (s : State) :
    ∃ H work W BLKBUF T, s.hashBlocks n =
      { s with H := H, work := work, W := W, BLKBUF := BLKBUF, BLK := s.BLK + n, T := T } ∧ (s.T ≤ 64 → T ≤ 64) := by
  induction n generalizing s with
  | zero => exact ⟨s.H, s.work, s.W, s.BLKBUF, s.T, rfl, id⟩
  | succ n ih =>
    obtain ⟨H, work, W, BLKBUF, T, h, hT⟩ := ih s.hashBlock
    refine ⟨H, work, W, BLKBUF, T, ?_, fun _ => hT ?_⟩
    · rw [State.hashBlocks, h, State.hashBlock_eq]
      simp only [State.mk.injEq, true_and, and_true]
      omega
    · rw [State.hashBlock_eq]

/-- What `HASH` leaves beside the datapath's registers. -/
theorem State.hashed_frame (s : State) :
    ∃ H work W BLKBUF T, s.hashed =
      { s with H := H, work := work, W := W, BLKBUF := BLKBUF, BLK := blockCount s.MLEN, NBLK := blockCount s.MLEN,
               T := T, DIGEST := hexString H, MODE := .done, resp := none } ∧ (s.T ≤ 64 → T ≤ 64) := by
  obtain ⟨H, work, W, BLKBUF, T, h, hT⟩ := State.hashBlocks_frame s.hinit.NBLK s.hinit
  refine ⟨H, work, W, BLKBUF, T, ?_, hT⟩
  rw [State.hashed, State.hashRun, h]
  simp only [State.hexfmt, State.hinit, Nat.zero_add]

end Sys2Proof.Machine
end

