-- ==== Sys2Proof/Laws/Commands.lean ====
section
/-! SUPPORT. Everything an instruction of each level can do when it completes, said once. -/

namespace Sys2Proof.Machine

/-- All that `PUSH` can do when it completes (45_host_commands.md R192). -/
theorem execPush_cases {s t : State} {c : BitVec 16} (h : exec (.push c) s = .next t) :
    (s.MODE = .error ∧ t = s.noResponse) ∨ (s.MODE ≠ .error ∧ ∃ f, f ≠ .internalInvariantError ∧ t = s.raise f) ∨
      (s.MODE = .load ∧ isByteCode c = true ∧ s.MLEN < s.msgMax.val ∧ t = s.append c) := by
  simp only [exec, execPush] at h
  rcases State.inMode_cases h with h | ⟨he, hm, h⟩ | ⟨he, _, h⟩
  · exact .inl h
  · rcases State.pushLoad_cases h with ⟨_, h⟩ | ⟨_, _, h⟩ | ⟨hb, hl, h⟩
    · exact .inr (.inl ⟨he, _, by decide, h⟩)
    · exact .inr (.inl ⟨he, _, by decide, h⟩)
    · exact .inr (.inr ⟨hm, hb, hl, h⟩)
  · exact .inr (.inl ⟨he, _, by decide, h⟩)

/-- `HASH` in mode `LOAD` on a readable message (45_host_commands.md R194). -/
theorem execHash_load {s : State} (hm : s.MODE = .load) (hr : MessageReadable s) : exec .hash s = .next s.hashed := by
  simp only [exec, execHash]
  rw [State.inMode_run _ (by simp) hm, State.withMessage_next hr]

/-- All that `HASH` can do when it completes (45_host_commands.md R194). -/
theorem execHash_cases {s t : State} (h : exec .hash s = .next t) :
    (s.MODE = .error ∧ t = s.noResponse) ∨ (s.MODE = .done ∧ t = s.raise .sequenceError) ∨
      (s.MODE = .load ∧ MessageReadable s ∧ t = s.hashed) := by
  simp only [exec, execHash] at h
  rcases State.inMode_cases h with h | ⟨_, hm, h⟩ | ⟨he, hm, h⟩
  · exact .inl h
  · exact .inr (.inr ⟨hm, State.withMessage_cases h⟩)
  · refine .inr (.inl ⟨?_, h⟩)
    cases hs : s.MODE <;> simp_all

/-- All that `RDHEX` can do (45_host_commands.md R197). -/
theorem execRdhex_cases {s t : State} {k : BitVec 6} (h : exec (.rdhex k) s = .next t) :
    (s.MODE = .error ∧ t = s.noResponse) ∨ (s.MODE = .load ∧ t = s.raise .sequenceError) ∨
      (s.MODE = .done ∧ t = s.respond (responseOfByte s.DIGEST[index64 k])) := by
  simp only [exec, execRdhex] at h
  rcases State.inMode_cases h with h | ⟨_, hm, h⟩ | ⟨he, hm, h⟩
  · exact .inl h
  · exact .inr (.inr ⟨hm, by simpa using h.symm⟩)
  · refine .inr (.inl ⟨?_, h⟩)
    cases hs : s.MODE <;> simp_all

/-- All that `RDH` can do (45_host_commands.md R198). -/
theorem execRdh_cases {s t : State} {k : BitVec 3} (h : exec (.rdh k) s = .next t) :
    (s.MODE = .error ∧ t = s.noResponse) ∨ (s.MODE = .load ∧ t = s.raise .sequenceError) ∨
      (s.MODE = .done ∧ t = s.respond s.H[index8 k]) := by
  simp only [exec, execRdh] at h
  rcases State.inMode_cases h with h | ⟨_, hm, h⟩ | ⟨he, hm, h⟩
  · exact .inl h
  · exact .inr (.inr ⟨hm, by simpa using h.symm⟩)
  · refine .inr (.inl ⟨?_, h⟩)
    cases hs : s.MODE <;> simp_all

/-- All that a host command can do when it completes (45_host_commands.md R190, R196). -/
theorem hostCommand_cases {s t : State} {i : Instr} (hl : i.level = .hostCommand) (h : exec i s = .next t) :
    (i = .clr ∧ t = s.clear) ∨
      (s.MODE = .error ∧ t = s.noResponse) ∨
      (s.MODE ≠ .error ∧ i ≠ .clr ∧ ∃ f, f ≠ .internalInvariantError ∧ t = s.raise f) ∨
      (∃ c, i = .push c ∧ s.MODE = .load ∧ s.MLEN < s.msgMax.val ∧ t = s.append c) ∨
      (i = .hash ∧ s.MODE = .load ∧ MessageReadable s ∧ t = s.hashed) ∨
      (∃ v, t = s.respond v) := by
  cases i <;> first | (cases hl; done) | skip
  case clr => exact .inl ⟨rfl, by simpa [exec, execClr] using h.symm⟩
  case push c =>
    rcases execPush_cases h with h | ⟨he, f, hf, h⟩ | ⟨hm, _, hc, h⟩
    · exact .inr (.inl h)
    · exact .inr (.inr (.inl ⟨he, by simp, f, hf, h⟩))
    · exact .inr (.inr (.inr (.inl ⟨c, rfl, hm, hc, h⟩)))
  case hash =>
    rcases execHash_cases h with h | ⟨hm, h⟩ | h
    · exact .inr (.inl h)
    · exact .inr (.inr (.inl ⟨by simp [hm], by simp, .sequenceError, by decide, h⟩))
    · exact .inr (.inr (.inr (.inr (.inl ⟨rfl, h⟩))))
  case rdhex k =>
    rcases execRdhex_cases h with h | ⟨hm, h⟩ | ⟨_, h⟩
    · exact .inr (.inl h)
    · exact .inr (.inr (.inl ⟨by simp [hm], by simp, .sequenceError, by decide, h⟩))
    · exact .inr (.inr (.inr (.inr (.inr ⟨_, h⟩))))
  case rdh k =>
    rcases execRdh_cases h with h | ⟨hm, h⟩ | ⟨_, h⟩
    · exact .inr (.inl h)
    · exact .inr (.inr (.inl ⟨by simp [hm], by simp, .sequenceError, by decide, h⟩))
    · exact .inr (.inr (.inr (.inr (.inr ⟨_, h⟩))))
  case rdstat => exact .inr (.inr (.inr (.inr (.inr ⟨s.status, by simpa [exec, execRdstat] using h.symm⟩))))

/-- All that a command word can do when it completes (45_host_commands.md R190). -/
theorem commandWord_cases {s t : State} {w : BitVec 32} (h : issueCmd w s = .next t) :
    (decodeCmd w = .ok .clr ∧ t = s.clear) ∨
      (s.MODE = .error ∧ t = s.noResponse) ∨
      (s.MODE ≠ .error ∧ decodeCmd w ≠ .ok .clr ∧ ∃ f, f ≠ .internalInvariantError ∧ t = s.raise f) ∨
      (∃ c, decodeCmd w = .ok (.push c) ∧ s.MODE = .load ∧ s.MLEN < s.msgMax.val ∧ t = s.append c) ∨
      (decodeCmd w = .ok .hash ∧ s.MODE = .load ∧ MessageReadable s ∧ t = s.hashed) ∨
      (∃ v, t = s.respond v) := by
  cases hd : decodeCmd w with
  | error e =>
    have ht : t = s.illegalWord := by simpa [issueCmd, hd] using h.symm
    rcases State.illegalWord_cases s with ⟨hm, hi⟩ | ⟨hm, hi⟩
    · exact .inr (.inl ⟨hm, by rw [ht, hi]⟩)
    · exact .inr (.inr (.inl ⟨hm, by simp, .illegalCommand, by decide, by rw [ht, hi]⟩))
  | ok i =>
    have he : exec i s = .next t := by simpa [issueCmd, hd] using h
    simpa using hostCommand_cases (decodeCmd_level hd) he

/-- What a micro-operation leaves as it is (10_state.md R20). -/
def State.SameOutsideDatapath (s t : State) : Prop :=
  t.MSG = s.MSG ∧ t.MLEN = s.MLEN ∧ t.MODE = s.MODE ∧ t.ERRCODE = s.ERRCODE ∧ t.msgMax = s.msgMax ∧ t.wu = s.wu ∧
    t.resp = s.resp ∧ t.stream = s.stream

/-- All that a micro-operation can do outside the datapath when it completes; the counter `T` stays in its range. -/
theorem microOperation_frame {s t : State} {i : Instr} (hl : i.level = .microOperation) (h : exec i s = .next t) :
    s.SameOutsideDatapath t ∧ (s.T ≤ 64 → t.T ≤ 64) := by
  cases i <;> first | (cases hl; done) | skip
  case hinit =>
    obtain rfl : s.hinit = t := Host.Outcome.next.inj h
    simp [State.SameOutsideDatapath]
  case wload =>
    obtain rfl : s.wload = t := Host.Outcome.next.inj h
    simp [State.SameOutsideDatapath]
  case rinit =>
    obtain rfl : s.rinit = t := Host.Outcome.next.inj h
    simp [State.SameOutsideDatapath]
  case hadd =>
    obtain rfl : s.hadd = t := Host.Outcome.next.inj h
    simp [State.SameOutsideDatapath]
  case hexfmt =>
    obtain rfl : s.hexfmt = t := Host.Outcome.next.inj h
    simp [State.SameOutsideDatapath]
  case blkfetch =>
    obtain ⟨_, rfl⟩ := State.withMessage_cases h
    simp [State.SameOutsideDatapath]
  case wexp k =>
    simp only [exec, execWexp] at h
    split at h
    · obtain rfl : s.wexp (index64 k) = t := Host.Outcome.next.inj h
      simp [State.SameOutsideDatapath]
    · cases h
  case round k =>
    obtain rfl : s.round (index64 k) = t := Host.Outcome.next.inj h
    simp [State.SameOutsideDatapath]

/-- All that a word-unit function can do: a result on the port. -/
theorem wordUnit_frame {s t : State} {i : Instr} (hl : i.level = .wordUnitFunction) (h : exec i s = .next t) :
    ∃ r, t = s.result r := by
  cases i <;> first | (cases hl; done) | exact ⟨_, (Host.Outcome.next.inj h).symm⟩

end Sys2Proof.Machine
end

