-- ==== Sys2Proof/Laws/Padder.lean ====
section
/-! SUPPORT. The padding within its precondition `L < 2^64` (93_implementation_defined.md U3), and that every message in
memory is within it. -/

namespace Sys2Proof.Machine

/-- A message that lies in memory has fewer than `2^64` bits (41_padder.md R136). -/
theorem State.bits_lt {s : State} (h : s.MLEN ≤ s.msgMax.val) : 8 * s.MLEN < 2 ^ 64 := by
  have := s.msgMax.isLt
  omega

/-- `pad` within its precondition is the three branches. -/
theorem padBits_of_lt {m : List Bool} (h : m.length < 2 ^ 64) :
    padBits m = padBranches m m.length (lengthBits (BitVec.ofNat 64 m.length)) := if_pos h

/-- The byte-level form within the precondition (41_padder.md R138). -/
theorem padByte_of_lt {n : Nat} (msg : Nat → Byte) (i : Nat) (h : 8 * n < 2 ^ 64) :
    padByte msg n i =
      if i < n then msg i
      else if i = n then 0x80#8
      else if i < 64 * blockCount n - 8 then 0x00#8
      else lengthByte (BitVec.ofNat 64 (8 * n)) (i - (64 * blockCount n - 8)) := if_pos h

/-- The length field has 64 positions (41_padder.md R136). -/
@[simp] theorem length_lengthBits (l : BitVec 64) : (lengthBits l).length = 64 := by simp [lengthBits]

end Sys2Proof.Machine
end

