-- ==== Sys2Proof/Laws/PerInstr.lean ====
section
/-! SUPPORT. Statements made per instruction. The family `TableRow` says that the encoder puts every instruction into
its own row of the opcode table. -/

namespace Sys2Proof.Laws

/-- The word of a well-formed instruction, under the mask of its opcode-table row, is the row's match
(30_encoding.md R73, R79, R80). -/
def TableRow.Statement (i : Instr) : Prop := i.wf = true → (encode i).inRowOf i = true

theorem TableRow.clr : TableRow.Statement .clr := fun _ => rfl

theorem TableRow.push (code : BitVec 16) : TableRow.Statement (.push code) := by
  intro _
  simp only [encode, packCmd, ControlWord.inRowOf, tableRow, ControlWord.and?, beq_iff_eq, Option.some.injEq,
    ControlWord.cmd.injEq]
  refine BitVec.eq_of_getLsbD_eq fun i hi => ?_
  rw [BitVec.getLsbD_and]
  simp only [BitVec.getLsbD_append, BitVec.getLsbD_setWidth]
  interval_cases i <;> simp

theorem TableRow.hash : TableRow.Statement .hash := fun _ => rfl

theorem TableRow.rdhex (idx : BitVec 6) : TableRow.Statement (.rdhex idx) := by
  intro _; revert idx; decide

theorem TableRow.rdh (idx : BitVec 3) : TableRow.Statement (.rdh idx) := by
  intro _; revert idx; decide

theorem TableRow.rdstat : TableRow.Statement .rdstat := fun _ => rfl

theorem TableRow.hinit : TableRow.Statement .hinit := fun _ => rfl

theorem TableRow.blkfetch : TableRow.Statement .blkfetch := fun _ => rfl

theorem TableRow.wload : TableRow.Statement .wload := fun _ => rfl

theorem TableRow.wexp (i : BitVec 6) : TableRow.Statement (.wexp i) := by
  intro _; revert i; decide

theorem TableRow.rinit : TableRow.Statement .rinit := fun _ => rfl

theorem TableRow.round (i : BitVec 6) : TableRow.Statement (.round i) := by
  intro _; revert i; decide

theorem TableRow.hadd : TableRow.Statement .hadd := fun _ => rfl

theorem TableRow.hexfmt : TableRow.Statement .hexfmt := fun _ => rfl

theorem TableRow.and : TableRow.Statement .and := fun _ => rfl

theorem TableRow.not : TableRow.Statement .not := fun _ => rfl

theorem TableRow.xor : TableRow.Statement .xor := fun _ => rfl

theorem TableRow.rotr (n : BitVec 5) : TableRow.Statement (.rotr n) := by
  intro _; revert n; decide

theorem TableRow.shr (n : BitVec 5) : TableRow.Statement (.shr n) := by
  intro _; revert n; decide

theorem TableRow.add : TableRow.Statement .add := fun _ => rfl

theorem TableRow.maj : TableRow.Statement .maj := fun _ => rfl

theorem TableRow.ssig0 : TableRow.Statement .ssig0 := fun _ => rfl

theorem TableRow.ssig1 : TableRow.Statement .ssig1 := fun _ => rfl

theorem TableRow.bsig0 : TableRow.Statement .bsig0 := fun _ => rfl

theorem TableRow.bsig1 : TableRow.Statement .bsig1 := fun _ => rfl

theorem TableRow.ch : TableRow.Statement .ch := fun _ => rfl

end Sys2Proof.Laws
end

