-- ==== Sys2Proof/Tests/Slice0.lean ====
section
/-! SUPPORT. The model's own tests. Expected values are the spec's (its file named at each test), never the model's own
answers. The witnesses at the end show that the hypotheses of each statement can be met. -/

namespace Sys2Proof.Tests

open Sys2Proof Sys2Proof.Machine

/-! ### Helpers -/

/-- A small concrete state: every register zero, mode `LOAD`, no message, room for three bytes. -/
def small : State where
  H := Vector.replicate 8 0
  work := { a := 0, b := 0, c := 0, d := 0, e := 0, f := 0, g := 0, h := 0 }
  W := Vector.replicate 64 0
  BLKBUF := Vector.replicate 16 0
  MSG := []
  MLEN := 0
  DIGEST := Vector.replicate 64 0
  MODE := .load
  ERRCODE := 0
  BLK := 0
  NBLK := 0
  T := 0
  msgMax := 3
  wu := { x := 0, y := 0, z := 0, r := 0 }
  resp := none
  stream := []

/-- The small state in another mode, with a fault code. -/
def inState (m : Mode) (code : BitVec 4) : State := { small with MODE := m, ERRCODE := code }

/-- The small state with a message and room for 1000 bytes. -/
def withBytes (m : List Byte) : State :=
  { small with MSG := m.zipIdx.map fun p => (p.2, p.1), MLEN := m.length, msgMax := 1000 }

/-- The message `abc`. -/
def abc : State := withBytes [0x61, 0x62, 0x63]

/-- The small state with operands on the word unit's ports. -/
def operands (x y z : Word) : State := { small with wu := { x := x, y := y, z := z, r := 0 } }

/-- The next state, if there is one. -/
def answer : Host.Outcome State Fault Refusal → Option State
  | .next t => some t
  | .fault _ | .refused _ => none

/-- The result port after an instruction. -/
def resultOf (i : Instr) (s : State) : Option Word := (answer (exec i s)).map (·.wu.r)

/-- The reason of a refusal. -/
def refusal : Host.Outcome State Fault Refusal → Option Refusal
  | .refused r => some r
  | .next _ | .fault _ => none

/-- The reason of a fault. -/
def faultOf : Host.Outcome State Fault Refusal → Option Fault
  | .fault f => some f
  | .next _ | .refused _ => none

/-! ### Well-formedness (30_encoding.md R80) -/

theorem test_wexp_15_is_ill_formed : (Instr.wexp 15).wf = false := by decide

theorem test_wexp_16_is_well_formed : (Instr.wexp 16).wf = true := by decide

theorem test_wexp_15_is_refused : refusal (exec (.wexp 15) small) = some (.reservedMicroOp 0b011001111) := by decide

/-! ### Decoding: every row, its word written out from 30_encoding.md R73, R80, R79 -/

theorem test_decode_host_commands :
    decodeCmd 0b00000001000000000000000000000000 = .ok .clr ∧
    decodeCmd 0b00000010000000000000000001100001 = .ok (.push 0x61) ∧
    decodeCmd 0b00000010000000001111111111111111 = .ok (.push 0xFFFF) ∧
    decodeCmd 0b00000011000000000000000000000000 = .ok .hash ∧
    decodeCmd 0b00000100000000000000000000111111 = .ok (.rdhex 63) ∧
    decodeCmd 0b00000101000000000000000000000111 = .ok (.rdh 7) ∧
    decodeCmd 0b00000110000000000000000000000000 = .ok .rdstat := by decide

theorem test_decode_micro_operations :
    decodeSeq 0b000000000 = .ok .hinit ∧ decodeSeq 0b001000000 = .ok .blkfetch ∧
    decodeSeq 0b010000000 = .ok .wload ∧ decodeSeq 0b011010000 = .ok (.wexp 16) ∧
    decodeSeq 0b100000000 = .ok .rinit ∧ decodeSeq 0b101000001 = .ok (.round 1) ∧
    decodeSeq 0b110000000 = .ok .hadd ∧ decodeSeq 0b111000000 = .ok .hexfmt := by decide

theorem test_decode_word_unit :
    decodeWu 0x000 = .ok .and ∧ decodeWu 0x020 = .ok .not ∧ decodeWu 0x040 = .ok .xor ∧
    decodeWu 0x067 = .ok (.rotr 7) ∧ decodeWu 0x083 = .ok (.shr 3) ∧ decodeWu 0x0A0 = .ok .add ∧
    decodeWu 0x0C0 = .ok .maj ∧ decodeWu 0x100 = .ok .ssig0 ∧ decodeWu 0x120 = .ok .ssig1 ∧
    decodeWu 0x140 = .ok .bsig0 ∧ decodeWu 0x160 = .ok .bsig1 ∧ decodeWu 0x180 = .ok .ch := by decide

/-- Illegal command words (30_encoding.md R74, 95_test_vectors.md section 2.6). -/
theorem test_illegal_commands :
    decodeCmd 0x00000000 = .error (.illegalCommand 0x00000000) ∧
    decodeCmd 0xFFFFFFFF = .error (.illegalCommand 0xFFFFFFFF) ∧
    decodeCmd 0x01000001 = .error (.illegalCommand 0x01000001) ∧
    decodeCmd 0x04000040 = .error (.illegalCommand 0x04000040) ∧
    decodeCmd 0x05000008 = .error (.illegalCommand 0x05000008) ∧
    decodeCmd 0x07000000 = .error (.illegalCommand 0x07000000) := by decide

/-- Words that name no function (95_test_vectors.md section 2.1) and no micro-operation (30_encoding.md R80). -/
theorem test_reserved_control_words :
    decodeWu 0x0E0 = .error (.noFunction 0x0E0) ∧ decodeWu 0x1A0 = .error (.noFunction 0x1A0) ∧
    decodeWu 0x001 = .error (.noFunction 0x001) ∧ decodeWu 0x0A1 = .error (.noFunction 0x0A1) ∧
    decodeSeq 0b011001111 = .error (.noMicroOperation 0b011001111) ∧
    decodeSeq 0b001000001 = .error (.noMicroOperation 0b001000001) := by decide

theorem test_table_word : decodeTableWord 32 0x0400003F = some (.rdhex 63) ∧
    decodeTableWord 16 0x072 = some (.rotr 18) ∧ decodeTableWord 16 0x1C0 = some .hexfmt := by decide

theorem test_fetch_word :
    (answer (step (small.withFetchWord 32 0x06000000))).map (·.resp) = some (some 0) := by decide

/-! ### Word-unit functions (95_test_vectors.md section 2.1) -/

theorem test_and : resultOf .and (operands 0xF0F0F0F0 0xFF00FF00 0) = some 0xF000F000 := by decide

theorem test_not : resultOf .not (operands 0x6A09E667 0 0) = some 0x95F61998 := by decide

theorem test_xor : resultOf .xor (operands 0xF0F0F0F0 0xFF00FF00 0) = some 0x0FF00FF0 := by decide

theorem test_rotr_31 : resultOf (.rotr 31) (operands 0x80000001 0 0) = some 0x00000003 := by decide

theorem test_rotr_0 : resultOf (.rotr 0) (operands 0x80000001 0 0) = some 0x80000001 := by decide

theorem test_shr_is_logical : resultOf (.shr 3) (operands 0xFFFFFFFF 0 0) = some 0x1FFFFFFF := by decide

theorem test_shr_31 : resultOf (.shr 31) (operands 0x80000000 0 0) = some 0x00000001 := by decide

theorem test_add_wraps : resultOf .add (operands 0x6A09E667 0xBB67AE85 0) = some 0x257194EC := by decide

theorem test_maj : resultOf .maj (operands 0xAAAAAAAA 0x12345678 0x9ABCDEF0) = some 0x9ABCDEF8 := by decide

theorem test_ch : resultOf .ch (operands 0x0F0F0F0F 0xFFFF0000 0x00FFFF00) = some 0x0FFFF000 := by decide

theorem test_ssig0 : resultOf .ssig0 (operands 0x12345678 0 0) = some 0xE7FCE6EE := by decide

theorem test_ssig1 : resultOf .ssig1 (operands 0x12345678 0 0) = some 0xA1F78649 := by decide

theorem test_bsig0 : resultOf .bsig0 (operands 0x12345678 0 0) = some 0x66146474 := by decide

theorem test_bsig1 : resultOf .bsig1 (operands 0x12345678 0 0) = some 0x3561ABDA := by decide

/-! ### The padder (95_test_vectors.md section 2.2) -/

/-- Block counts at the boundaries. -/
theorem test_block_counts : [0, 1, 55, 56, 64, 65, 119, 120, 1000].map blockCount =
    [1, 1, 1, 2, 2, 2, 2, 3, 16] := by decide

/-- Zero counts at the boundaries, two of them at lengths that bytes do not reach. -/
theorem test_zero_counts : [0, 440, 447, 448, 504, 512, 513, 520, 960, 8000].map zeroCount =
    [447, 7, 0, 511, 455, 447, 446, 439, 511, 127] := by decide

/-- The padding of 447 one bits. -/
theorem test_pad_447 : (blocksOfBits (padBits (List.replicate 447 true))).map (·.toList) =
    [List.replicate 14 0xFFFFFFFF ++ [0, 0x1BF]] := by decide +kernel

/-- The padding of 513 one bits. -/
theorem test_pad_513 : (blocksOfBits (padBits (List.replicate 513 true))).map (·.toList) =
    [List.replicate 16 0xFFFFFFFF, 0xC0000000 :: List.replicate 14 0 ++ [0x201]] := by decide +kernel

theorem test_blkfetch_abc :
    (answer (exec .blkfetch { abc with NBLK := 1 })).map (fun t => (t.BLKBUF.toList, t.BLK)) =
      some (0x61626380 :: List.replicate 14 0 ++ [0x18], 1) := by decide +kernel

/-- Block 1 of 65 letters `a` (V8). -/
theorem test_blkfetch_second_block :
    (answer (exec .blkfetch { withBytes (List.replicate 65 0x61) with NBLK := 2, BLK := 1 })).map (·.BLKBUF.toList) =
      some (0x61800000 :: List.replicate 14 0 ++ [0x208]) := by decide +kernel

/-! ### Scheduler, rounds, formatter (95_test_vectors.md sections 2.3 to 2.5, 43_compression.md, 44_formatter.md) -/

theorem test_wload :
    (answer (exec .wload { small with W := Vector.replicate 64 7, BLKBUF := Vector.replicate 16 5 })).map
      (fun t => (t.W[15], t.W[16], t.T)) = some (5, 7, 16) := by decide

/-- `W[18] = SSIG1(W[16])` in the schedule of the empty message. -/
theorem test_wexp :
    (answer (exec (.wexp 18) { small with W := (Vector.replicate 64 0).set 16 0x80000000 })).map
      (fun t => (t.W[18], t.T)) = some (0x00205000, 19) := by decide

/-- The last words of the schedule of `abc`. -/
theorem test_schedule_abc :
    let w := schedule #v[0x61626380, 0, 0, 0, 0, 0, 0, 0, 0, 0, 0, 0, 0, 0, 0, 0x18]
    w[19] = 0x600003C6 ∧ w[31] = 0xD3B7973B ∧ w[62] = 0xEEABA2CC ∧ w[63] = 0x12B1EDEB := by decide +kernel

theorem test_hinit : (answer (exec .hinit { small with MLEN := 56, BLK := 9 })).map
    (fun t => (t.H[0], t.H[7], t.BLK, t.NBLK)) = some (0x6A09E667, 0x5BE0CD19, 0, 2) := by decide

theorem test_rinit : (answer (exec .rinit { small with H := IV, T := 64 })).map
    (fun t => (t.work.a, t.work.h, t.T)) = some (0x6A09E667, 0x5BE0CD19, 0) := by decide

/-- Round 0 of `abc`. -/
theorem test_round : (answer (exec (.round 0)
      { small with work := workOf IV, W := (Vector.replicate 64 0).set 0 0x61626380 })).map
    (fun t => (t.work.a, t.work.d, t.work.e, t.T)) = some (0x5D6AEBCD, 0x3C6EF372, 0xFA2A4622, 1) := by decide

theorem test_hadd : (answer (exec .hadd { small with
      H := Vector.replicate 8 0xFFFFFFFF, work := { small.work with a := 1, h := 3 } })).map
    (fun t => (t.H[0], t.H[1], t.H[7])) = some (0, 0xFFFFFFFF, 2) := by decide

theorem test_hexfmt : (answer (exec .hexfmt { small with H := Vector.replicate 8 0xBA7816BF })).map
    (fun t => (t.DIGEST[8], t.DIGEST[9], t.DIGEST[15])) = some (0x62, 0x61, 0x66) := by decide

/-! ### Host commands (95_test_vectors.md sections 1 and 2.4, 45_host_commands.md) -/

theorem test_clr_leaves_error : (answer (exec .clr (inState .error 5))).map
    (fun t => (t.MODE, t.ERRCODE, t.MLEN)) = some (.load, 0, 0) := by decide

theorem test_push_appends : (answer (exec (.push 0x63) (withBytes [0x61, 0x62]))).map
    (fun t => (t.MSG, t.MLEN, t.MODE)) = some ([(0, 0x61), (1, 0x62), (2, 0x63)], 3, .load) := by decide

theorem test_push_256_faults : (answer (exec (.push 256) small)).map
    (fun t => (t.MODE, t.ERRCODE, t.MLEN)) = some (.error, 1, 0) := by decide

/-- V2: `abc`. -/
theorem test_hash_abc : (answer (exec .hash abc)).map (·.H) =
    some #v[0xBA7816BF, 0x8F01CFEA, 0x414140DE, 0x5DAE2223, 0xB00361A3, 0x96177A9C, 0xB410FF61, 0xF20015AD] := by
  decide +kernel

/-- V1: the empty message, after reset; the first and last characters of the digest string. -/
theorem test_hash_empty : (answer (exec .hash State.reset)).map
    (fun t => (t.H[0], t.DIGEST[0], t.DIGEST[63], t.MODE)) = some (0xE3B0C442, 0x65, 0x35, .done) := by
  decide +kernel

theorem test_rdhex : (answer (exec (.rdhex 63) { inState .done 0 with
      DIGEST := (Vector.replicate 64 0x30).set 63 0x66 })).map (·.resp) = some (some 0x66) := by decide

theorem test_rdh : (answer (exec (.rdh 7) { inState .done 0 with
      H := (Vector.replicate 8 0).set 7 0xF20015AD })).map (·.resp) = some (some 0xF20015AD) := by decide

theorem test_rdstat_error : (answer (exec .rdstat (inState .error 5))).map (·.resp) = some (some 0x502) := by decide

/-- An illegal word in mode `ERROR` is ignored: the first fault stays (60_exceptions.md R217). -/
theorem test_error_mode_ignores : (answer (issueCmd 0xFFFFFFFF (inState .error 5))).map
    (fun t => (t.MODE, t.ERRCODE)) = some (.error, 5) := by decide

/-- A read outside the message memory's written part stops (log 4). -/
theorem test_unwritten_byte_stops :
    faultOf (exec .blkfetch { small with MLEN := 1 }) = some .unwrittenMessageByte := by decide

/-! ### Assembler lines (30_encoding.md R82, R83) -/

theorem test_assemble_character : assembleLine ['P', 'U', 'S', 'H', ' ', apostrophe, 'a', apostrophe] =
    some [.push 0x61] := by decide

theorem test_assemble_comment : assembleLine ['R', 'D', 'H', ' ', '0', 'x', '7', ' ', ';', 'x'] =
    some [.rdh 7] := by decide

/-! ### Witnesses: the hypotheses of each statement can be met, at the boundaries of their ranges -/

/-- The small state with one byte in memory: `EngineInv` holds of it. -/
def oneByte : State := { small with MSG := [(0, 0x61)], MLEN := 1, stream := [.cmd 0x02000062] }

/-- A state in mode `DONE` after the hash of the empty message, `RDSTAT` to come. -/
def hashedEmpty : State :=
  { inState .done 0 with H := digestState [], DIGEST := hexString (digestState []), stream := [.cmd 0x06000000] }

/-- Its digest string is that of its hash state. -/
theorem hashedEmpty_DIGEST : hashedEmpty.DIGEST = hexString hashedEmpty.H := by simp only [hashedEmpty]

/-- Its hash state is the digest state of the empty message. -/
theorem hashedEmpty_H : hashedEmpty.H = digestState [] := by simp only [hashedEmpty]

theorem witness_DecodeOfEncode : (Instr.wexp 16).wf = true ∧ (Instr.wexp 63).wf = true := by decide

theorem witness_EncodeOfDecode :
    decode (.cmd 0x0200FFFF) = .ok (.push 0xFFFF) ∧ decode (.seq 0b011010000) = .ok (.wexp 16) ∧
    decode (.wu 0x07F) = .ok (.rotr 31) := by decide

theorem witness_HostDecodeIsSevenWay :
    decodeCmd 0x05000007 = .ok (.rdh 7) ∧ Instr.hash.level = .hostCommand := by decide

theorem witness_HostCommandMatchAndMask :
    (Instr.push 0).level = .hostCommand ∧ (Instr.push 5).level = .hostCommand ∧
    (ControlWord.cmd 0x0200FFFF).inRowOf (.push 0) = true ∧
    (ControlWord.cmd 0x0200FFFF).inRowOf (.push 5) = true := by decide

theorem witness_IllegalWordsFault :
    (∃ e, decodeCmd 0x02010000 = .error e) ∧ (∃ e, decodeCmd 0x07000000 = .error e) ∧
    (inState .error 1).MODE = .error ∧ small.MODE ≠ .error :=
  ⟨⟨.illegalCommand 0x02010000, by decide⟩, ⟨.illegalCommand 0x07000000, by decide⟩, by decide, by decide⟩

theorem witness_StepRunsDecodedInstruction :
    (decodeCmd 0x03000000 = .ok .hash ∧ { small with stream := [.cmd 0x03000000] }.stream = [.cmd 0x03000000]) ∧
    (decodeSeq 0x140 = .ok (.round 0) ∧ { small with stream := [.seq 0x140] }.stream = [.seq 0x140]) ∧
    (decodeWu 0x0A0 = .ok .add ∧ { small with stream := [.wu 0x0A0 1 2 3] }.stream = [.wu 0x0A0 1 2 3]) ∧
    { small with stream := [.rst] }.stream = [.rst] ∧ small.stream = [] := by decide

theorem witness_ReservedControlWordsRefused :
    decodeSeq 0b001000001 = .error (.noMicroOperation 0b001000001) ∧
    decodeWu 0x0E0 = .error (.noFunction 0x0E0) ∧ (15#6).toNat < 16 := by decide

/-- Bit positions and amounts of the word-unit statements (`BitwiseFunctions`, `ShrIsLogical`, `AddIsRippleCarryModuloWord`, `MajIsMajorityOfBits`, `ChChooses`, `RotrRotates`). -/
theorem witness_bit_positions :
    (0 < 32) ∧ (31 < 32) ∧ (0#5 = 0) ∧ 1 ≤ (1#5).toNat ∧ 1 ≤ (31#5).toNat ∧ 0 + (31#5).toNat ≤ 31 := by decide

theorem witness_WordUnitFrame : Instr.add.level = .wordUnitFunction ∧
    ∃ t, exec .add { operands 1 2 3 with MODE := .error } = .next t ∧ (operands 1 2 3).wu.z = 3 :=
  ⟨rfl, _, rfl, rfl⟩

theorem witness_MarkerAndLengthField : ([] : List Bool).length < 2 ^ 64 ∧ (0 < 64 ∧ 63 < 64) ∧ small.MLEN ≤ small.msgMax.val ∧
    { small with MLEN := 2 ^ 61 - 1, msgMax := Config.resetCapacity }.MLEN ≤ Config.resetCapacity.val := by decide

theorem witness_PaddingBranchesAreOneFormula :
    (List.replicate 513 true).length < 2 ^ 64 ∧
    (List.replicate 447 true).length < 448 ∧
    (448 ≤ (List.replicate 448 true).length ∧ (List.replicate 512 true).length ≤ 512) ∧
    512 < (List.replicate 513 true).length ∧ 0 < zeroCount 513 := by
  simp only [List.length_replicate]
  decide

theorem witness_BytePaddingIsBitPadding : 8 * [(0x61 : Byte)].length < 2 ^ 64 ∧ 8 * ([] : List Byte).length < 2 ^ 64 := by
  decide

theorem witness_FetchedBlocksAreThePadding : abc.MLEN ≤ abc.msgMax.val := by decide

/-- A message that can be read. -/
theorem witness_MessageReadable : MessageReadable abc ∧ MessageReadable small := by
  unfold MessageReadable
  decide

theorem witness_BlkfetchDeliversBlock :
    MessageReadable { abc with NBLK := 1 } ∧ { abc with NBLK := 1 }.BLK < 1 ∧ 1 = blockCount abc.MLEN := by
  unfold MessageReadable
  decide

/-- A word of message bytes alone, in the last block. -/
theorem witness_BlkfetchDeliversBlock_words :
    let s := { withBytes [1, 2, 3, 4] with NBLK := 1 }
    s.MLEN ≤ s.msgMax.val ∧ s.BLK < s.NBLK ∧ s.NBLK = blockCount s.MLEN ∧
    64 * s.BLK + 4 * (0 : Fin 16).val + 3 < s.MLEN ∧ s.BLK + 1 = s.NBLK := by decide

theorem witness_OutsidePreconditions :
    (MessageReadable small ∧ ¬(small.BLK < small.NBLK ∧ small.NBLK = blockCount small.MLEN)) ∧
    ({ small with MLEN := 4 }.msgMax.val < 4 ∧ { small with MLEN := 4 }.MODE = .load ∧ (255#16).toNat ≤ 255) ∧
    ({ small with MLEN := 3 }.MLEN ≤ small.msgMax.val ∧ 2 < 3 ∧ Mem.read small.MSG 2 = none) := by
  unfold MessageReadable
  decide

theorem witness_WloadCopiesBlock : (15 : Fin 64).val < 16 ∧ 16 ≤ (16 : Fin 64).val ∧ 16 ≤ (63 : Fin 64).val := by
  decide

theorem witness_WexpExpands : 16 ≤ (16#6).toNat ∧ 16 ≤ (63#6).toNat ∧ (15#6).toNat < 16 ∧
    (15 : Fin 64) ≠ index64 16#6 := by decide

theorem witness_ScheduleIsFunctionOfBlock :
    (15 : Fin 64).val < 16 ∧ 16 ≤ (16 : Fin 64).val ∧ 16 ≤ (63 : Fin 64).val := by decide

theorem witness_BlockIterationIsBlockfn :
    let s := { withBytes (List.replicate 65 0x61) with NBLK := 2, BLK := 1 }
    s.BLK < s.NBLK ∧ s.NBLK = blockCount s.MLEN := by decide

theorem witness_DigestStringDeterminesState : hexString IV = hexString (#v[0x6A09E667, 0xBB67AE85, 0x3C6EF372,
    0xA54FF53A, 0x510E527F, 0x9B05688C, 0x1F83D9AB, 0x5BE0CD19]) := rfl

theorem witness_ClrProducesResetState : ∃ t, exec .clr (inState .error 5) = .next t := ⟨_, rfl⟩

theorem witness_FirstCommandsAfterReset : (255#16).toNat ≤ 255 ∧ 0 < small.msgMax.val := by decide

theorem witness_PushOutcome :
    (field 0x02010000#32 24 8 = 0x02#8 ∧ field 0x02010000#32 16 8 ≠ 0#8) ∧
    (inState .done 0).MODE = .done ∧
    (small.MODE = .load ∧ 255 < (256#16).toNat) ∧
    ({ small with MLEN := 3 }.MODE = .load ∧ (255#16).toNat ≤ 255 ∧ { small with MLEN := 3 }.MLEN = small.msgMax.val) ∧
    ({ small with MLEN := 2 }.MODE = .load ∧ { small with MLEN := 2 }.MLEN < small.msgMax.val) := by decide

theorem witness_PushFrame :
    (∃ t, exec (.push 0x61) small = .next t) ∧ Mem.wf small.MSG = true ∧
    (∃ t, exec (.push 256) small = .next t) ∧ ∃ t, exec (.push 0) (inState .error 3) = .next t :=
  ⟨⟨_, rfl⟩, rfl, ⟨_, rfl⟩, _, rfl⟩

theorem witness_HashIsItsMicroOperations :
    (abc.MODE = .load ∧ MessageReadable abc) ∧ (inState .done 0).MODE = .done :=
  ⟨⟨rfl, witness_MessageReadable.1⟩, rfl⟩

theorem witness_SequencerIssuesOnlyMicroOperations : Instr.hadd ∈ microTrace 1 := by decide

theorem witness_HashComputesSha256 : small.MODE = .load ∧ MessageReadable small := ⟨rfl, witness_MessageReadable.2⟩

/-- `HASH` completes in each mode. -/
theorem witness_HashFrame : exec .hash abc = .next abc.hashed ∧
    (∃ t, exec .hash (inState .done 0) = .next t) ∧ ∃ t, exec .hash (inState .error 1) = .next t :=
  ⟨execHash_load rfl witness_MessageReadable.1, ⟨_, rfl⟩, _, rfl⟩

/-- The digest of `abc`. -/
def abcDigest : Vector Word 8 :=
  #v[0xBA7816BF, 0x8F01CFEA, 0x414140DE, 0x5DAE2223, 0xB00361A3, 0x96177A9C, 0xB410FF61, 0xF20015AD]

theorem witness_DigestReadsRespond :
    let s := { inState .done 0 with H := abcDigest, DIGEST := hexString abcDigest }
    s.MODE = .done ∧ small.MODE = .load ∧ s.DIGEST = hexString s.H ∧ s.H = abcDigest := ⟨rfl, rfl, rfl, rfl⟩

theorem witness_RdstatResponds : (StatusInv small ∧ small.MODE = .load) ∧
    (StatusInv (inState .done 0) ∧ (inState .done 0).MODE = .done) ∧
    (StatusInv (inState .error 5) ∧ (inState .error 5).MODE = .error) := by
  unfold StatusInv
  decide

theorem witness_StatusLayout : (inState .error 5).MODE = .error ∧ small.MODE ≠ .error ∧ small.MODE = .load ∧
    exec .hash small = .next small.hashed ∧ exec .clr small = .next small.clear ∧
    issue .rst small = .next small.clear :=
  ⟨rfl, by decide, rfl, execHash_load rfl witness_MessageReadable.2, rfl, rfl⟩

theorem witness_CommandTable :
    (small.MODE = .load ∧ small.MLEN < small.msgMax.val ∧ (255#16).toNat ≤ 255 ∧ 255 < (256#16).toNat) ∧
    ({ small with MLEN := 3 }.MODE = .load ∧ { small with MLEN := 3 }.MLEN = small.msgMax.val) ∧
    MessageReadable small ∧ decodeCmd 0 = .error (.illegalCommand 0) ∧
    (inState .done 0).MODE = .done ∧ (inState .error 4).MODE = .error :=
  ⟨by decide, by decide, witness_MessageReadable.2, by decide, by decide, by decide⟩

theorem witness_FaultsArePrecise : small.MODE ≠ .error ∧ ∃ t, issueCmd 0 small = .next t ∧ t.MODE = .error :=
  ⟨by decide, _, rfl, rfl⟩

/-- One command word for each of the four codes. -/
theorem witness_FaultCodesAndCauses :
    (∃ t, issueCmd 0x02000100 small = .next t ∧ t.MODE = .error ∧ t.ERRCODE = 1) ∧
    (∃ t, issueCmd 0xFFFFFFFF (inState .done 0) = .next t ∧ t.MODE = .error ∧ t.ERRCODE = 3) ∧
    (∃ t, issueCmd 0x03000000 (inState .done 0) = .next t ∧ t.MODE = .error ∧ t.ERRCODE = 4) ∧
    (∃ t, issueCmd 0x020000FF { small with MLEN := 3 } = .next t ∧ t.MODE = .error ∧ t.ERRCODE = 5) :=
  ⟨⟨_, rfl, rfl, rfl⟩, ⟨_, rfl, rfl, rfl⟩, ⟨_, rfl, rfl, rfl⟩, _, rfl, rfl, rfl⟩

theorem witness_FaultPriority :
    ((inState .error 1).MODE = .error ∧ decodeCmd 0 ≠ .ok .clr ∧ decodeCmd 0 ≠ .ok .rdstat) ∧
    (small.MODE ≠ .error ∧ decodeCmd 0 = .error (.illegalCommand 0)) ∧
    ((inState .done 0).MODE = .done ∧ decodeCmd 0x02000100 = .ok (.push 256)) ∧
    (small.MODE = .load ∧ 255 < (256#16).toNat) ∧
    ({ small with MLEN := 3 }.MODE = .load ∧ decodeCmd 0x020000FF = .ok (.push 255) ∧
      { small with MLEN := 3 }.MLEN = small.msgMax.val) := by decide

theorem witness_ErrorModeIgnores : (inState .error 4).MODE = .error ∧ decodeCmd 0x01000000 = .ok .clr ∧
    decodeCmd 0x06000000 = .ok .rdstat ∧ decodeCmd 0x03000000 ≠ .ok .clr ∧ decodeCmd 0x03000000 ≠ .ok .rdstat := by
  decide

/-- A step of each kind the statement speaks of. -/
theorem witness_ModeTransitions :
    (∃ t, step { inState .error 1 with stream := [.rst] } = .next t ∧ t.MODE ≠ .error) ∧
    (decodeCmd 0x01000000 = .ok .clr ∧ ∃ t, step { small with stream := [.cmd 0x01000000] } = .next t) ∧
    (decodeCmd 0x03000000 = .ok .hash ∧ small.MODE = .load ∧
      step { small with stream := [.cmd 0x03000000] } = .next small.hashed ∧ small.hashed.MODE = .done) ∧
    (decodeCmd 0 ≠ .ok .clr ∧ decodeCmd 0 ≠ .ok .rdstat ∧
      ∃ t, step { inState .error 1 with stream := [.cmd 0] } = .next t) := by
  refine ⟨⟨_, rfl, by decide⟩, ⟨by decide, _, rfl⟩, ⟨by decide, rfl, ?_, ?_⟩, by decide, by decide, _, rfl⟩
  · rw [step_cons rfl]
    exact execHash_load (s := small.take []) rfl witness_MessageReadable.2
  · obtain ⟨_, _, _, _, _, h, _⟩ := State.hashed_frame small
    rw [h]

theorem witness_MicroOperationFrame : (Instr.round 63).level = .microOperation ∧
    ∃ t, exec (.round 63) small = .next t := ⟨rfl, _, rfl⟩

theorem witness_MessageIsAppendOnly : ∃ t, step oneByte = .next t ∧ t.MLEN = oneByte.MLEN + 1 := ⟨_, rfl, rfl⟩

theorem oneByte_inv : EngineInv oneByte := by
  refine ⟨⟨rfl, fun a => ?_, by decide⟩, ⟨fun _ => rfl, fun h => by cases h⟩, Nat.zero_le _⟩
  rcases Nat.lt_or_ge a 1 with h | h
  · obtain rfl : a = 0 := by omega
    rfl
  · have h0 : a ≠ 0 := by omega
    simp [oneByte, small, Mem.read, h0]

theorem witness_StepKeepsEngineInvariant : EngineInv oneByte ∧ ∃ t, step oneByte = .next t := ⟨oneByte_inv, _, rfl⟩

theorem hashedEmpty_inv : HostInv hashedEmpty := by
  refine ⟨⟨⟨rfl, fun a => ?_, by decide⟩, ⟨fun _ => rfl, fun h => by cases h⟩, Nat.zero_le _⟩, fun _ => ⟨?_, hashedEmpty_DIGEST⟩, ?_⟩
  · simp [hashedEmpty, inState, small, Mem.read]
  · have h : hashedEmpty.message = [] := rfl
    rw [h, hashedEmpty_H]
  · intro e he
    obtain rfl : e = .cmd 0x06000000 := by simpa [hashedEmpty] using he
    rfl

theorem witness_StepKeepsDigestInvariant : HostInv hashedEmpty ∧ hashedEmpty.MODE = .done ∧
    ∃ t, step hashedEmpty = .next t := ⟨hashedEmpty_inv, rfl, _, rfl⟩

theorem witness_HostNeverStops : EngineInv hashedEmpty ∧ HostDriven hashedEmpty :=
  ⟨hashedEmpty_inv.1, hashedEmpty_inv.2.2⟩

/-- Two states with one message and different registers. -/
theorem witness_DigestDependsOnMessageOnly :
    let s' := { abc with H := IV, T := 64, BLK := 5 }
    abc.MODE = .load ∧ s'.MODE = .load ∧ abc.message = s'.message ∧
    exec .hash abc = .next abc.hashed ∧ exec .hash s' = .next s'.hashed :=
  ⟨rfl, rfl, rfl, witness_HashFrame.1, execHash_load rfl witness_MessageReadable.1⟩

theorem witness_Sha256PseudoInstruction :
    let codes := ([0x61, 0x62, 0x63] : List Byte).map fun b => b.zeroExtend 16
    let s := { inState .error 5 with stream := hostEvents (sha256Commands codes) ++ [Event.rst] }
    codes.length ≤ s.msgMax.val ∧ s.stream = hostEvents (sha256Commands codes) ++ [Event.rst] := by
  exact ⟨by decide, rfl⟩

end Sys2Proof.Tests
end

section
/-! SUPPORT. The padding (41_padder.md): the bits of byte sequences, one formula for the three branches, and that the
byte-level padding, block by block, is the bit-level padding. -/

namespace Sys2Proof.Machine

/-! ### Bits of byte sequences -/

@[simp] theorem length_bitsOfByte (b : Byte) : (bitsOfByte b).length = 8 := by simp [bitsOfByte]

@[simp] theorem messageBits_nil : messageBits [] = [] := rfl

@[simp] theorem messageBits_cons (b : Byte) (m : List Byte) :
    messageBits (b :: m) = bitsOfByte b ++ messageBits m := List.flatMap_cons

@[simp] theorem messageBits_append (m n : List Byte) : messageBits (m ++ n) = messageBits m ++ messageBits n :=
  List.flatMap_append

@[simp] theorem length_messageBits (m : List Byte) : (messageBits m).length = 8 * m.length := by
  induction m with
  | nil => rfl
  | cons b m ih => simp [ih]; omega

/-- Whole bytes dropped from the front. -/
theorem messageBits_drop (m : List Byte) (i : Nat) : (messageBits m).drop (8 * i) = messageBits (m.drop i) := by
  induction i generalizing m with
  | zero => simp
  | succ i ih =>
    cases m with
    | nil => simp
    | cons b m =>
      rw [messageBits_cons, Nat.mul_succ, Nat.add_comm, ← List.drop_drop, List.drop_left' (by simp), ih,
        List.drop_succ_cons]

/-- Whole bytes taken from the front. -/
theorem messageBits_take (m : List Byte) (i : Nat) : (messageBits m).take (8 * i) = messageBits (m.take i) := by
  induction i generalizing m with
  | zero => simp
  | succ i ih =>
    cases m with
    | nil => simp
    | cons b m =>
      rw [messageBits_cons, Nat.mul_succ, Nat.add_comm, List.take_add, List.take_left' (by simp),
        List.drop_left' (by simp), ih, List.take_succ_cons, messageBits_cons]

theorem messageBits_replicate_zero (n : Nat) :
    messageBits (List.replicate n 0x00#8) = List.replicate (8 * n) false := by
  induction n with
  | zero => rfl
  | succ n ih =>
    rw [List.replicate_succ, messageBits_cons, ih, Nat.mul_succ, Nat.add_comm, List.replicate_add]
    rfl

/-- The byte of the marker bit (41_padder.md R138). -/
theorem bitsOfByte_marker : bitsOfByte 0x80#8 = true :: List.replicate 7 false := by decide

/-- The length field, byte by byte (41_padder.md R138). -/
theorem messageBits_lengthByte (l : BitVec 64) : messageBits ((List.range 8).map (lengthByte l)) = lengthBits l := by
  have hbytes : lengthBits l =
      (List.range 8).flatMap fun q => (List.range 8).map fun p => l.getLsbD (63 - (8 * q + p)) := rfl
  rw [hbytes, messageBits, List.flatMap_map]
  refine List.flatMap_congr fun q hq => List.map_congr_left fun p hp => ?_
  rw [List.mem_range] at hq hp
  have hbit : 56 - 8 * q + (7 - p) = 63 - (8 * q + p) := by omega
  simp [lengthByte, hbit]
  omega

/-- The word of a bit sequence, bit by bit: the last bit is the least significant (00_scope.md R12). -/
theorem getLsbD_wordOfBits (l : List Bool) {i : Nat} (hi : i < 32) :
    (wordOfBits l).getLsbD i = l.reverse.getD i false := by
  induction l using List.reverseRecOn generalizing i with
  | nil => simp [wordOfBits]
  | append_singleton l b ih =>
    have hstep : wordOfBits (l ++ [b]) = wordOfBits l <<< 1 ||| (if b then 1#32 else 0#32) := by
      simp [wordOfBits]
    rw [hstep, List.reverse_append]
    cases i with
    | zero => cases b <;> simp
    | succ i =>
      have hi' : i < 32 := by omega
      have := ih hi'
      cases b <;> simpa [hi, hi'] using this

/-- Reading the bits of a byte from the last one. -/
theorem getD_reverse_bitsOfByte_append (b : Byte) (l : List Bool) (i : Nat) :
    ((bitsOfByte b).reverse ++ l).getD i false = if i < 8 then b.getLsbD i else l.getD (i - 8) false := by
  have hrev : (bitsOfByte b).reverse = (List.range 8).map b.getLsbD := rfl
  split
  · rw [hrev, List.getD_append _ _ _ _ (by simpa)]
    simp [*]
  · rw [List.getD_append_right _ _ _ _ (by simp; omega), List.length_reverse, length_bitsOfByte]

/-- Four bytes as a word, from their bits (20_memory.md R54). -/
theorem wordOfBits_messageBits (b0 b1 b2 b3 : Byte) :
    wordOfBits (messageBits [b0, b1, b2, b3]) = wordOfBytes b0 b1 b2 b3 := by
  apply BitVec.eq_of_getLsbD_eq
  intro i hi
  have hrev : (messageBits [b0, b1, b2, b3]).reverse =
      (bitsOfByte b3).reverse ++ ((bitsOfByte b2).reverse ++
        ((bitsOfByte b1).reverse ++ ((bitsOfByte b0).reverse ++ []))) := by
    simp
  rw [getLsbD_wordOfBits _ hi, hrev]
  simp only [getD_reverse_bitsOfByte_append, wordOfBytes, BitVec.getLsbD_append]
  split <;> [rfl; split] <;> [rfl; split] <;> [rfl; skip]
  have hlt : i - 8 - 8 - 8 < 8 := by omega
  rw [if_pos hlt]

/-! ### The padding -/

/-- The fewest zeros are those of the one formula (41_padder.md R135, R137). -/
theorem fewestZeros_eq_zeroCount (l : Nat) : fewestZeros l = zeroCount l := by
  have h : (List.range 512).find? (fun k => (l + 1 + k) % 512 == 448) = some (zeroCount l) := by
    simp only [List.find?_range_eq_some, zeroCount, List.mem_range, beq_iff_eq, Bool.not_eq_true',
      beq_eq_false_iff_ne]
    exact ⟨by omega, by omega, fun j _ => by omega⟩
  simp [fewestZeros, h]

/-- The three branches are one formula (41_padder.md R137). -/
theorem padBits_eq_zeroCount {m : List Bool} (h : m.length < 2 ^ 64) :
    padBits m = m ++ [true] ++ List.replicate (zeroCount m.length) false ++
      lengthBits (BitVec.ofNat 64 m.length) := by
  rw [padBits_of_lt h, padBranches]
  split
  · have hz : zeroCount m.length = 447 - m.length := by unfold zeroCount; omega
    rw [hz]
  · split
    · have hz : zeroCount m.length = 959 - m.length := by unfold zeroCount; omega
      rw [hz, List.take_append, List.take_of_length_le (by simp; omega)]
      simp
      omega
    · rw [fewestZeros_eq_zeroCount]

/-- The bytes of the padded message (41_padder.md R138): message, marker, zeros, length. -/
theorem padBytes_eq (msg : Nat → Byte) {n : Nat} (h : 8 * n < 2 ^ 64) :
    (List.range (64 * blockCount n)).map (padByte msg n) =
      (List.range n).map msg ++ [0x80#8] ++ List.replicate (64 * blockCount n - 9 - n) 0x00#8 ++
        (List.range 8).map (lengthByte (BitVec.ofNat 64 (8 * n))) := by
  obtain ⟨z, hz⟩ : ∃ z, 64 * blockCount n = n + 1 + z + 8 :=
    ⟨64 * blockCount n - 9 - n, by unfold blockCount; omega⟩
  have hmessage : ∀ i ∈ List.range n, padByte msg n i = msg i := fun i hi => by
    rw [padByte_of_lt _ _ h, if_pos (List.mem_range.mp hi)]
  have hmarker : padByte msg n n = 0x80#8 := by
    rw [padByte_of_lt _ _ h, if_neg (by omega), if_pos rfl]
  have hzero : ∀ i ∈ List.range z, padByte msg n (n + 1 + i) = 0x00#8 := fun i hi => by
    rw [List.mem_range] at hi
    rw [padByte_of_lt _ _ h, if_neg (by omega), if_neg (by omega), if_pos (by omega)]
  have hlength : ∀ q ∈ List.range 8, padByte msg n (n + 1 + z + q) =
      lengthByte (BitVec.ofNat 64 (8 * n)) q := fun q _ => by
    have hq : n + 1 + z + q - (n + 1 + z) = q := by omega
    rw [padByte_of_lt _ _ h, if_neg (by omega), if_neg (by omega), if_neg (by omega), hz, Nat.add_sub_cancel, hq]
  have hz' : n + 1 + z + 8 - 9 - n = z := by omega
  rw [hz, hz', List.range_add, List.range_add, List.range_add]
  simp only [List.map_append, List.map_map, Function.comp_def, List.map_congr_left hmessage,
    List.map_congr_left hzero, List.map_congr_left hlength]
  simp [hmarker]

/-- The byte-level padding is the bit-level padding (41_padder.md R138). -/
theorem messageBits_padBytes (msg : Nat → Byte) {n : Nat} (h : 8 * n < 2 ^ 64) :
    messageBits ((List.range (64 * blockCount n)).map (padByte msg n)) =
      padBits (messageBits ((List.range n).map msg)) := by
  have hlen : (messageBits ((List.range n).map msg)).length = 8 * n := by simp
  have hzeros : zeroCount (8 * n) = 7 + 8 * (64 * blockCount n - 9 - n) := by
    unfold zeroCount blockCount
    omega
  rw [padBytes_eq msg h, padBits_eq_zeroCount (by rwa [hlen]), hlen, hzeros, List.replicate_add]
  simp [messageBits_replicate_zero, messageBits_lengthByte, bitsOfByte_marker]

/-- Word `i` of a byte sequence given byte by byte, from its bits (41_padder.md R140, R141). -/
theorem wordOfBits_take_drop (f : Nat → Byte) {n i : Nat} (h : 4 * i + 4 ≤ n) :
    wordOfBits (((messageBits ((List.range n).map f)).drop (32 * i)).take 32) =
      wordOfBytes (f (4 * i)) (f (4 * i + 1)) (f (4 * i + 2)) (f (4 * i + 3)) := by
  have hword : ((List.range n).drop (4 * i)).take 4 = [4 * i, 4 * i + 1, 4 * i + 2, 4 * i + 3] := by
    obtain ⟨r, rfl⟩ : ∃ r, n = 4 * i + (4 + r) := ⟨n - (4 * i + 4), by omega⟩
    rw [List.range_add, List.drop_left' (by simp), List.range_add, List.map_append, List.take_left' (by simp)]
    rfl
  have h32 : 32 * i = 8 * (4 * i) := by omega
  rw [h32, messageBits_drop, messageBits_take _ 4, ← List.map_drop, ← List.map_take, hword,
    ← wordOfBits_messageBits]
  rfl

/-- Block `j` of the bit-level padding is block `j` of the byte-level padding (41_padder.md R140, R141). -/
theorem blockOfBits_padBits (msg : Nat → Byte) {n j : Nat} (h : 8 * n < 2 ^ 64) (hj : j < blockCount n) :
    blockOfBits (padBits (messageBits ((List.range n).map msg))) j = padBlock msg n j := by
  rw [← messageBits_padBytes msg h, blockOfBits, padBlock]
  congr 1
  funext t
  have hbit : 512 * j + 32 * t.val = 32 * (16 * j + t.val) := by omega
  have hbyte : 4 * (16 * j + t.val) = 64 * j + 4 * t.val := by omega
  rw [hbit, wordOfBits_take_drop _ (by omega), hbyte, padWord]

/-- The blocks of the byte-level padding are the blocks of the bit-level padding (41_padder.md R138, R141). -/
theorem map_padBlock_eq_blocksOfBits (msg : Nat → Byte) {n : Nat} (h : 8 * n < 2 ^ 64) :
    (List.range (blockCount n)).map (padBlock msg n) =
      blocksOfBits (padBits (messageBits ((List.range n).map msg))) := by
  have hlen : (padBits (messageBits ((List.range n).map msg))).length / 512 = blockCount n := by
    rw [← messageBits_padBytes msg h]
    simp
    omega
  rw [blocksOfBits, hlen]
  exact List.map_congr_left fun j hj => (blockOfBits_padBits msg h (List.mem_range.mp hj)).symm

end Sys2Proof.Machine
end

section
/-! SUPPORT. What `HASH` leaves (45_host_commands.md R194, R195): the expanded schedule depends on the block alone, one
iteration of the block loop is the block function, and the loop is the compression of the padded message. -/

namespace Sys2Proof.Machine

/-- Two schedules hold the same words below index `k`. -/
def SameBelow (k : Nat) (w w' : Vector Word 64) : Prop := ∀ (t : Nat) (ht : t < 64), t < k → w[t] = w'[t]

/-- The expansion runs through `16 .. 63` in increasing order (42_schedule.md R152). -/
theorem expandIndices_val : expandIndices.map Fin.val = List.range' 16 48 := by decide

/-- `WLOAD` fixes the first sixteen words, whatever `W` held (42_schedule.md R150). -/
theorem loadSchedule_sameBelow (block : Vector Word 16) (w w' : Vector Word 64) :
    SameBelow 16 (loadSchedule block w) (loadSchedule block w') := by
  intro t _ hk
  simp [loadSchedule, hk]

/-- A derived schedule word depends on the words below it alone (42_schedule.md R151). -/
theorem SameBelow.expandOne {i : Fin 64} (hi : 16 ≤ i.val) {w w' : Vector Word 64}
    (h : SameBelow i.val w w') : SameBelow (i.val + 1) (expandSchedule w i) (expandSchedule w' i) := by
  have hword : expansionWord w i = expansionWord w' i := by
    unfold expansionWord
    rw [h (i.val - 16) (by omega) (by omega), h (i.val - 15) (by omega) (by omega),
      h (i.val - 7) (by omega) (by omega), h (i.val - 2) (by omega) (by omega)]
  intro t ht hk
  unfold expandSchedule
  rw [hword, Vector.getElem_set, Vector.getElem_set]
  split
  · rfl
  · exact h t ht (by omega)

/-- A run of the expansion at rising indices extends the common part. -/
theorem SameBelow.expandAll (l : List (Fin 64)) {k : Nat} (hk : 16 ≤ k)
    (hl : l.map Fin.val = List.range' k l.length) {w w' : Vector Word 64} (h : SameBelow k w w') :
    SameBelow (k + l.length) (l.foldl expandSchedule w) (l.foldl expandSchedule w') := by
  induction l generalizing k w w' with
  | nil => exact h
  | cons i l ih =>
    rw [List.map_cons, List.length_cons, List.range'_succ, List.cons.injEq] at hl
    obtain ⟨rfl, hl⟩ := hl
    have := ih (by omega) hl (h.expandOne hk)
    rwa [List.length_cons, Nat.add_comm l.length, ← Nat.add_assoc]

/-- The expanded schedule is a function of the block alone (42_schedule.md R152). -/
theorem foldl_expandSchedule_loadSchedule (block : Vector Word 16) (w : Vector Word 64) :
    expandIndices.foldl expandSchedule (loadSchedule block w) = schedule block := by
  have hsame : SameBelow 64 (expandIndices.foldl expandSchedule (loadSchedule block w)) (schedule block) :=
    SameBelow.expandAll expandIndices (Nat.le_refl 16) expandIndices_val
      (loadSchedule_sameBelow block w (Vector.replicate 64 0#32))
  exact Vector.ext fun t ht => hsame t ht ht

section
variable (s : State)

@[simp] theorem State.hashBlock_MSG : s.hashBlock.MSG = s.MSG := by rw [State.hashBlock_eq]
@[simp] theorem State.hashBlock_MLEN : s.hashBlock.MLEN = s.MLEN := by rw [State.hashBlock_eq]
@[simp] theorem State.hashBlock_BLK : s.hashBlock.BLK = s.BLK + 1 := by rw [State.hashBlock_eq]
@[simp] theorem State.hashBlock_NBLK : s.hashBlock.NBLK = s.NBLK := by rw [State.hashBlock_eq]

@[simp] theorem State.hashBlock_msgByte : s.hashBlock.msgByte = s.msgByte := by
  funext i
  simp only [State.msgByte, State.hashBlock_MSG]

/-- One iteration of the block loop applies the block function to the fetched block (43_compression.md R168). -/
theorem State.hashBlock_H : s.hashBlock.H = blockfn s.H s.fetchedBlock := by
  rw [State.hashBlock_eq]
  simp only [foldl_expandSchedule_loadSchedule, blockfn]

end

/-- Within the precondition the fetched block is block `BLK` of the padded message (41_padder.md R140). -/
theorem State.fetchedBlock_of_ready {s : State} (hb : s.BLK < s.NBLK) (hn : s.NBLK = blockCount s.MLEN) :
    s.fetchedBlock = padBlock s.msgByte s.MLEN s.BLK := by
  simp [State.fetchedBlock, State.fetchReady, hb, ← hn]

/-- The block loop compresses the blocks from `BLK` on (43_compression.md R169). -/
theorem State.hashBlocks_H (n : Nat) (s : State) (hb : s.BLK + n ≤ s.NBLK) (hn : s.NBLK = blockCount s.MLEN) :
    (s.hashBlocks n).H = compress s.H ((List.range n).map fun k => padBlock s.msgByte s.MLEN (s.BLK + k)) := by
  induction n generalizing s with
  | zero => rfl
  | succ n ih =>
    have hfetch := State.fetchedBlock_of_ready (s := s) (by omega) hn
    have hrest := ih s.hashBlock (by simp; omega) (by simpa using hn)
    rw [State.hashBlocks, hrest, State.hashBlock_H, hfetch, List.range_succ_eq_map]
    simp [compress, Function.comp_def, Nat.add_assoc, Nat.add_comm 1]

section
variable (s : State)

@[simp] theorem State.hashed_MODE : s.hashed.MODE = .done := by
  obtain ⟨_, _, _, _, _, h, _⟩ := State.hashed_frame s
  rw [h]

theorem State.hashed_DIGEST : s.hashed.DIGEST = hexString s.hashed.H := by
  obtain ⟨_, _, _, _, _, h, _⟩ := State.hashed_frame s
  rw [h]

/-- `HASH` leaves in `H` the compression of the blocks of the message (45_host_commands.md R194). -/
theorem State.hashed_H :
    s.hashed.H = compress IV ((List.range (blockCount s.MLEN)).map (padBlock s.msgByte s.MLEN)) := by
  have hloop := State.hashBlocks_H (blockCount s.MLEN) s.hinit (by simp) rfl
  have hmsg : s.hinit.msgByte = s.msgByte := rfl
  rw [State.hashed, State.hashRun, State.hexfmt_H, State.hinit_NBLK, hloop]
  simp [hmsg]

end

/-- `HASH` computes the digest of the message (45_host_commands.md R195). -/
theorem State.hashed_H_eq_digestState {s : State} (h : s.MLEN ≤ s.msgMax.val) :
    s.hashed.H = digestState s.message := by
  rw [State.hashed_H, map_padBlock_eq_blocksOfBits _ (State.bits_lt h), digestState, State.message]

end Sys2Proof.Machine
end

section
/-! The status register and the reset state (10_state.md R29, R35, R36). -/

namespace Sys2Proof.Machine

/-! ### The status register (10_state.md R29) -/

/-- A field that lies wholly in the high part of a concatenation. -/
theorem field_append_high {n k : Nat} (x : BitVec n) (y : BitVec k) {lo : Nat} (len : Nat) (h : k ≤ lo) :
    field (x ++ y) lo len = field x (lo - k) len := by
  apply BitVec.eq_of_getLsbD_eq
  intro i hi
  have hbit : ¬lo + i < k := by omega
  have hsub : lo + i - k = lo - k + i := by omega
  simp only [field, BitVec.getLsbD_extractLsb', BitVec.getLsbD_append, if_neg hbit, hsub]

/-- A field that lies wholly in the low part of a concatenation. -/
theorem field_append_low {n k : Nat} (x : BitVec n) (y : BitVec k) {lo len : Nat} (h : lo + len ≤ k) :
    field (x ++ y) lo len = field y lo len := by
  apply BitVec.eq_of_getLsbD_eq
  intro i hi
  have hbit : lo + i < k := by omega
  simp only [field, BitVec.getLsbD_extractLsb', BitVec.getLsbD_append, if_pos hbit]

section
variable (m : Mode) (code : BitVec 4)

theorem statusWord_bit_zero : (statusWord m code).getLsbD 0 = true ↔ m = .done := by
  rw [statusWord, BitVec.getLsbD_append]
  cases m <;> simp [doneBit]

theorem statusWord_bit_one : (statusWord m code).getLsbD 1 = true ↔ m = .error := by
  rw [statusWord, BitVec.getLsbD_append, BitVec.getLsbD_append]
  cases m <;> simp [errBit]

theorem field_statusWord_errcode : field (statusWord m code) 8 4 = errField m code := by
  rw [statusWord, field_append_high _ _ _ (by decide), field_append_high _ _ _ (by decide),
    field_append_high _ _ _ (by decide), field_append_low _ _ (by decide)]
  simp [field]

theorem field_statusWord_reserved_low : field (statusWord m code) 2 6 = 0 := by
  rw [statusWord, field_append_high _ _ _ (by decide), field_append_high _ _ _ (by decide),
    field_append_low _ _ (by decide)]
  simp [field]

theorem field_statusWord_reserved_high : field (statusWord m code) 12 20 = 0 := by
  rw [statusWord, field_append_high _ _ _ (by decide), field_append_high _ _ _ (by decide),
    field_append_high _ _ _ (by decide), field_append_high _ _ _ (by decide)]
  simp [field]

theorem statusWord_load : statusWord .load code = 0 := by simp [statusWord, errField, errBit, doneBit]

theorem statusWord_done : statusWord .done code = 1 := by simp [statusWord, errField, errBit, doneBit]

end

@[simp] theorem errField_error (code : BitVec 4) : errField .error code = code := rfl

/-- Outside `ERROR` the field reads 0, whatever the register holds (10_state.md R29; log 19). -/
theorem errField_of_ne_error {m : Mode} (code : BitVec 4) (h : m ≠ .error) : errField m code = 0 := by
  cases m with
  | load => rfl
  | done => rfl
  | error => exact absurd rfl h

/-! ### `CLR` -/

@[simp] theorem State.clear_status (s : State) : s.clear.status = 0 := statusWord_load _

@[simp] theorem State.clear_clear (s : State) : s.clear.clear = s.clear := rfl

theorem exec_clr (s : State) : exec .clr s = .next s.clear := rfl

/-- Settles O35: both are `State.clear`, and clearing twice is clearing once. -/
theorem clrProducesResetState : Obligations.ClrProducesResetState := by
  intro s
  refine ⟨rfl, rfl, fun t ht => ?_⟩
  obtain rfl : s.clear = t := Host.Outcome.next.inj ht
  exact ⟨rfl, rfl, rfl, s.clear_status, rfl, fun _ => rfl, by rw [exec_clr, s.clear_clear]⟩

/-- Settles O46: the layout field by field, and the mode that each command leaves. -/
theorem statusLayout : Obligations.StatusLayout := by
  intro s
  have hdone : s.status.getLsbD 0 = true ↔ s.MODE = .done := statusWord_bit_zero _ _
  have herr : s.status.getLsbD 1 = true ↔ s.MODE = .error := statusWord_bit_one _ _
  have hcode : field s.status 8 4 = errField s.MODE s.ERRCODE := field_statusWord_errcode _ _
  refine ⟨hdone, herr, field_statusWord_reserved_low _ _, field_statusWord_reserved_high _ _, fun hm => ?_,
    fun hm => ?_, ?_, rfl, fun t hm ht => ?_, fun f => ⟨?_, ?_⟩, fun t ht => ?_, fun t ht => ?_, ?_⟩
  · rw [hcode, hm, errField_error]
  · rw [hcode, errField_of_ne_error _ hm]
  · refine Bool.eq_false_iff.mpr fun hboth => ?_
    obtain ⟨h0, h1⟩ := (Bool.and_eq_true _ _).mp hboth
    cases (hdone.mp h0).symm.trans (herr.mp h1)
  · rcases execHash_cases ht with ⟨he, _⟩ | ⟨hd, _⟩ | ⟨_, _, rfl⟩
    · cases hm.symm.trans he
    · cases hm.symm.trans hd
    · rw [State.status, State.hashed_MODE, statusWord_done]
  · exact (statusWord_bit_one _ _).mpr rfl
  · exact field_statusWord_errcode _ _
  · obtain rfl : s.clear = t := Host.Outcome.next.inj ht
    exact s.clear_status
  · obtain rfl : s.clear = t := Host.Outcome.next.inj ht
    exact s.clear_status
  · exact statusWord_load _

end Sys2Proof.Machine
end

section
/-! The changes of mode (10_state.md R30). -/

namespace Sys2Proof.Machine

theorem issueCmd_of_decode {w : BitVec 32} {i : Instr} (h : decodeCmd w = .ok i) (s : State) :
    issueCmd w s = exec i s := by
  simp [issueCmd, h]

/-- In `ERROR` every command but `CLR` and `RDSTAT` is ignored (60_exceptions.md R217). -/
theorem exec_error_mode {s : State} {i : Instr} (hl : i.level = .hostCommand) (hm : s.MODE = .error)
    (hclr : i ≠ .clr) (hrdstat : i ≠ .rdstat) : exec i s = .next s.noResponse := by
  cases i
  case clr => exact absurd rfl hclr
  case rdstat => exact absurd rfl hrdstat
  case push | hash | rdhex | rdh => simp only [exec, execPush, execHash, execRdhex, execRdh, State.inMode_error _ hm]
  all_goals cases hl

/-- In `ERROR` every command word but `CLR` and `RDSTAT` is ignored, illegal ones too (60_exceptions.md R217). -/
theorem issueCmd_error_mode {s : State} {w : BitVec 32} (hm : s.MODE = .error) (hclr : decodeCmd w ≠ .ok .clr)
    (hrdstat : decodeCmd w ≠ .ok .rdstat) : issueCmd w s = .next s.noResponse := by
  cases hd : decodeCmd w with
  | error e => simp [issueCmd, hd, State.illegalWord, hm]
  | ok i =>
    rw [issueCmd_of_decode hd]
    refine exec_error_mode (decodeCmd_level hd) hm ?_ ?_
    · rintro rfl; exact hclr hd
    · rintro rfl; exact hrdstat hd

/-- A `SEQ9` word on the bench keeps the mode. -/
theorem issueSeq_MODE {s t : State} {w : BitVec 9} (h : issueSeq w s = .next t) : t.MODE = s.MODE := by
  obtain ⟨i, hd, he⟩ := issueSeq_cases h
  obtain ⟨⟨_, _, hm, _⟩, _⟩ := microOperation_frame (decodeSeq_level hd) he
  exact hm

/-- A `WU9` word on the bench keeps the mode. -/
theorem issueWu_MODE {s t : State} {w : BitVec 9} (h : issueWu w s = .next t) : t.MODE = s.MODE := by
  obtain ⟨i, hd, he⟩ := issueWu_cases h
  obtain ⟨r, rfl⟩ := wordUnit_frame (decodeWu_level hd) he
  rfl

/-- A command word that changes the mode is `CLR`, `HASH` in `LOAD`, or a fault outside `ERROR`. -/
theorem issueCmd_mode_changes {s t : State} {w : BitVec 32} (h : issueCmd w s = .next t) (hne : s.MODE ≠ t.MODE) :
    (decodeCmd w = .ok .clr ∧ t.MODE = .load) ∨
      (decodeCmd w = .ok .hash ∧ s.MODE = .load ∧ MessageReadable s ∧ t = s.hashed) ∨
      (s.MODE ≠ .error ∧ t.MODE = .error) := by
  rcases commandWord_cases h with
    ⟨hd, rfl⟩ | ⟨_, rfl⟩ | ⟨hm, _, f, _, rfl⟩ | ⟨c, _, _, _, rfl⟩ | hhash | ⟨v, rfl⟩
  · exact .inl ⟨hd, rfl⟩
  · exact absurd rfl hne
  · exact .inr (.inr ⟨hm, rfl⟩)
  · exact absurd rfl hne
  · exact .inr (.inl hhash)
  · exact absurd rfl hne

/-- Entering `DONE` from `LOAD` is a `HASH` on a readable message. -/
theorem issueCmd_load_to_done {s t : State} {w : BitVec 32} (h : issueCmd w s = .next t) (hs : s.MODE = .load)
    (ht : t.MODE = .done) : MessageReadable s ∧ t = s.hashed := by
  rcases issueCmd_mode_changes h (by simp [hs, ht]) with ⟨_, hm⟩ | ⟨_, _, hr, hh⟩ | ⟨_, hm⟩
  · cases ht.symm.trans hm
  · exact ⟨hr, hh⟩
  · cases ht.symm.trans hm

/-- Settles O52: the event is taken, and what it does to the mode is said by its kind. -/
theorem modeTransitions : Obligations.ModeTransitions := by
  intro s t e rest hs hstep
  rw [step_cons hs] at hstep
  refine ⟨?_, ?_, ?_, ?_, ?_, fun hne => ?_⟩
  · rintro rfl
    obtain rfl : (s.take rest).clear = t := Host.Outcome.next.inj hstep
    rfl
  · rintro w rfl hd
    obtain rfl : (s.take rest).clear = t := Host.Outcome.next.inj ((issueCmd_of_decode hd _).symm.trans hstep)
    rfl
  · rintro w rfl hd hm
    rcases execHash_cases ((issueCmd_of_decode hd _).symm.trans hstep) with ⟨he, _⟩ | ⟨hdone, _⟩ | ⟨_, _, rfl⟩
    · cases hm.symm.trans he
    · cases hm.symm.trans hdone
    · exact State.hashed_MODE _
  · rintro w rfl hm hclr hrdstat
    exact (Host.Outcome.next.inj ((issueCmd_error_mode (s := s.take rest) hm hclr hrdstat).symm.trans hstep)).symm
  · rintro w rfl hm ht
    obtain ⟨⟨hfits, _⟩, rfl⟩ := issueCmd_load_to_done (s := s.take rest) hstep hm ht
    exact ⟨State.hashed_H_eq_digestState hfits, State.hashed_DIGEST _⟩
  · cases e with
    | rst =>
      obtain rfl : (s.take rest).clear = t := Host.Outcome.next.inj hstep
      exact .inl ⟨rfl, rfl⟩
    | cmd w =>
      rcases issueCmd_mode_changes (s := s.take rest) hstep hne with ⟨hd, ht⟩ | ⟨hd, hm, _, rfl⟩ | ⟨hm, ht⟩
      · exact .inr (.inl ⟨w, rfl, hd, ht⟩)
      · exact .inr (.inr (.inl ⟨w, rfl, hd, hm, State.hashed_MODE _⟩))
      · exact .inr (.inr (.inr ⟨w, rfl, hm, ht⟩))
    | seq w => exact absurd (issueSeq_MODE hstep).symm hne
    | wu w x y z => exact absurd (issueWu_MODE hstep).symm hne

end Sys2Proof.Machine
end

section
/-! The message memory (20_memory.md): it is append-only between clears (R52), and its bits, the marker and the length
field in the padded sequence (R53; 41_padder.md R131 to R136). -/

namespace Sys2Proof.Machine

/-! ### What an event can do to the message (20_memory.md R52) -/

/-- A command word clears the message, keeps it, or is a `PUSH` that appends a byte. -/
theorem issueCmd_message_cases {s t : State} {w : BitVec 32} (h : issueCmd w s = .next t) :
    (decodeCmd w = .ok .clr ∧ t = s.clear) ∨ (t.MLEN = s.MLEN ∧ t.MSG = s.MSG) ∨
      ∃ c, decodeCmd w = .ok (.push c) ∧ t = s.append c := by
  rcases commandWord_cases h with
    hclr | ⟨_, rfl⟩ | ⟨_, _, f, _, rfl⟩ | ⟨c, hd, _, _, rfl⟩ | ⟨_, _, _, rfl⟩ | ⟨v, rfl⟩
  · exact .inl hclr
  · exact .inr (.inl ⟨rfl, rfl⟩)
  · exact .inr (.inl ⟨rfl, rfl⟩)
  · exact .inr (.inr ⟨c, hd, rfl⟩)
  · obtain ⟨_, _, _, _, _, hhashed, _⟩ := s.hashed_frame
    exact .inr (.inl (by simp [hhashed]))
  · exact .inr (.inl ⟨rfl, rfl⟩)

/-- A `SEQ9` word on the bench keeps the message. -/
theorem issueSeq_message {s t : State} {w : BitVec 9} (h : issueSeq w s = .next t) :
    t.MLEN = s.MLEN ∧ t.MSG = s.MSG := by
  obtain ⟨i, hd, he⟩ := issueSeq_cases h
  obtain ⟨⟨hmsg, hmlen, _⟩, _⟩ := microOperation_frame (decodeSeq_level hd) he
  exact ⟨hmlen, hmsg⟩

/-- A `WU9` word on the bench keeps the message. -/
theorem issueWu_message {s t : State} {w : BitVec 9} (h : issueWu w s = .next t) :
    t.MLEN = s.MLEN ∧ t.MSG = s.MSG := by
  obtain ⟨i, hd, he⟩ := issueWu_cases h
  obtain ⟨r, rfl⟩ := wordUnit_frame (decodeWu_level hd) he
  exact ⟨rfl, rfl⟩

/-- Settles O54: the step takes an event, and what that does to the message is said by its kind. -/
theorem messageIsAppendOnly : Obligations.MessageIsAppendOnly := by
  intro s t hstep
  rcases step_cases hstep with ⟨_, rfl⟩ | ⟨e, rest, hs, hissue⟩
  · exact .inr (.inl ⟨rfl, rfl⟩)
  cases e with
  | rst =>
    obtain rfl : (s.take rest).clear = t := Host.Outcome.next.inj hissue
    exact .inl ⟨rfl, rfl, rest, .inl hs⟩
  | cmd w =>
    rcases issueCmd_message_cases hissue with ⟨hd, rfl⟩ | hkept | ⟨c, hd, rfl⟩
    · exact .inl ⟨rfl, rfl, rest, .inr ⟨w, hs, hd⟩⟩
    · exact .inr (.inl hkept)
    · exact .inr (.inr ⟨w, c, rest, hs, hd, rfl, Mem.read_write_same _ _ _, fun a ha =>
        Mem.read_write_other _ _ ha⟩)
  | seq w => exact .inr (.inl (issueSeq_message (s := s.take rest) hissue))
  | wu w x y z => exact .inr (.inl (issueWu_message (s := (s.take rest).drive x y z) hissue))

/-! ### The bits of the message, the marker and the length field (20_memory.md R53; 41_padder.md R131 to R136) -/

theorem getElem?_bitsOfByte (b : Byte) {p : Nat} (hp : p < 8) : (bitsOfByte b)[p]? = some (b.getLsbD (7 - p)) := by
  simp [bitsOfByte, hp]

theorem getElem?_lengthBits (l : BitVec 64) {q : Nat} (hq : q < 64) :
    (lengthBits l)[q]? = some (l.getLsbD (63 - q)) := by
  simp [lengthBits, hq]

/-- The bits of byte `i` stand at positions `8 * i` to `8 * i + 7` (20_memory.md R53). -/
theorem getElem?_messageBits {m : List Byte} {i p : Nat} (hi : i < m.length) (hp : p < 8) :
    (messageBits m)[8 * i + p]? = some (m[i].getLsbD (7 - p)) := by
  rw [← List.getElem?_drop, messageBits_drop, List.drop_eq_getElem_cons hi, messageBits_cons,
    List.getElem?_append_left (by rwa [length_bitsOfByte]), getElem?_bitsOfByte _ hp]

/-- The one bit stands right after the message, in every branch (41_padder.md R132). -/
theorem getElem?_padBits_marker {m : List Bool} (h : m.length < 2 ^ 64) : (padBits m)[m.length]? = some true := by
  simp [padBits_eq_zeroCount h]

/-- The last 64 positions are the bits of the unpadded length, the highest first (41_padder.md R136). -/
theorem getElem?_padBits_length {m : List Bool} (h : m.length < 2 ^ 64) {q : Nat} (hq : q < 64) :
    (padBits m)[(padBits m).length - 64 + q]? = some (m.length.testBit (63 - q)) := by
  have hbit : (BitVec.ofNat 64 m.length).getLsbD (63 - q) = m.length.testBit (63 - q) := by
    rw [BitVec.getLsbD_ofNat, decide_eq_true (by omega), Bool.true_and]
  rw [padBits_eq_zeroCount h, List.length_append, length_lengthBits, Nat.add_sub_cancel,
    List.getElem?_append_right (Nat.le_add_right _ _), Nat.add_sub_cancel_left, getElem?_lengthBits _ hq, hbit]

@[simp] theorem State.length_message (s : State) : s.message.length = s.MLEN := by simp [State.message]

/-- Settles O18: position by position; the two examples of R136 are computed. -/
theorem markerAndLengthField : Obligations.MarkerAndLengthField := by
  refine ⟨fun m i p => ⟨length_messageBits m, getElem?_messageBits i.isLt p.isLt⟩, messageBits_nil,
    fun m h => ⟨getElem?_padBits_marker h, fun q hq => getElem?_padBits_length h hq⟩,
    fun s h => ⟨?_, State.bits_lt h⟩, ?_⟩
  · rw [length_messageBits, State.length_message]
  · decide

end Sys2Proof.Machine
end

section
/-! The encoding of host commands (30_encoding.md): decoding is the inverse of encoding (R75), a command word is known
by its match and mask (R73), and the illegal words fault (R74). -/

namespace Sys2Proof.Machine

/-! ### Words and their fields (00_scope.md R11) -/

/-- A word is known by its high and its low field. -/
theorem eq_iff_field_eq {n k m : Nat} (h : m + k = n) (v w : BitVec n) :
    v = w ↔ field v k m = field w k m ∧ field v 0 k = field w 0 k := by
  subst h
  refine ⟨by rintro rfl; exact ⟨rfl, rfl⟩, fun ⟨hhigh, hlow⟩ => ?_⟩
  simp only [field] at hhigh hlow
  rw [← BitVec.extractLsb'_append_extractLsb' (x := v), hhigh, hlow, BitVec.extractLsb'_append_extractLsb']

/-- A field of a field that starts at the word's lowest bit. -/
theorem field_field_zero {n len lo m : Nat} (w : BitVec n) (h : lo + m ≤ len) :
    field (field w 0 len) lo m = field w lo m :=
  BitVec.extractLsb'_extractLsb'_of_le h

/-- An operand field holds a narrower operand exactly when the bits above the operand are zero (30_encoding.md R71). -/
theorem zeroExtend_eq_iff {n k m : Nat} (h : m + k = n) (c : BitVec k) (arg : BitVec n) :
    c.zeroExtend n = arg ↔ field arg k m = 0#m ∧ c = field arg 0 k := by
  have hhigh : field (c.zeroExtend n) k m = 0#m := by
    apply BitVec.eq_of_getLsbD_eq
    simp [field]
  have hlow : field (c.zeroExtend n) 0 k = c := by
    rw [field, BitVec.zeroExtend, BitVec.extractLsb'_setWidth_of_le (by omega), BitVec.extractLsb'_eq_self]
  rw [eq_iff_field_eq h, hhigh, hlow, eq_comm (a := 0#m)]

/-! ### Encoding (30_encoding.md R70, R71, R75) -/

/-- The word packed from a code and an operand is the one with that code, that operand and zero reserved bits. -/
theorem packCmd_eq_cmd {k m : Nat} (h : m + k = 24) (op : BitVec 8) (c : BitVec k) (w : BitVec 32) :
    packCmd op (c.zeroExtend 24) = .cmd w ↔ field w 24 8 = op ∧ field w k m = 0#m ∧ c = field w 0 k := by
  have hop : field (op ++ c.zeroExtend 24) 24 8 = op := BitVec.extractLsb'_append_eq_left
  have harg : field (op ++ c.zeroExtend 24) 0 24 = c.zeroExtend 24 := BitVec.extractLsb'_append_eq_right
  rw [packCmd, ControlWord.cmd.injEq, eq_iff_field_eq (k := 24) (m := 8) rfl, hop, harg, zeroExtend_eq_iff h,
    field_field_zero w (by omega), field_field_zero w (by omega), eq_comm (a := op)]

/-- The word packed from a code alone is the one with that code and all operand bits zero. -/
theorem packCmd_zero_eq_cmd (op : BitVec 8) (w : BitVec 32) :
    packCmd op 0#24 = .cmd w ↔ field w 24 8 = op ∧ field w 0 24 = 0#24 :=
  (packCmd_eq_cmd (k := 0) rfl op 0#0 w).trans (and_congr_right' (and_iff_left (Subsingleton.elim _ _)))

/-- A packed word is the sum of the code's word and the operand (30_encoding.md R75). -/
theorem packCmd_eq_add {k : Nat} (h : k ≤ 24) (op : BitVec 8) (c : BitVec k) :
    packCmd op (c.zeroExtend 24) = .cmd ((op ++ 0#24) + c.zeroExtend 32) := by
  have hc : c.zeroExtend 32 = 0#8 ++ c.zeroExtend 24 :=
    (BitVec.setWidth_setWidth (by omega)).symm.trans (BitVec.setWidth_eq_append (v := 24) (by decide))
  rw [hc, BitVec.append_zero_add_zero_append, packCmd]

section
variable (w : BitVec 32)

theorem encode_clr_eq_cmd : encode .clr = .cmd w ↔ field w 24 8 = 0x01#8 ∧ field w 0 24 = 0#24 :=
  packCmd_zero_eq_cmd _ w

theorem encode_push_eq_cmd (c : BitVec 16) :
    encode (.push c) = .cmd w ↔ field w 24 8 = 0x02#8 ∧ field w 16 8 = 0#8 ∧ c = field w 0 16 :=
  packCmd_eq_cmd rfl _ c w

theorem encode_hash_eq_cmd : encode .hash = .cmd w ↔ field w 24 8 = 0x03#8 ∧ field w 0 24 = 0#24 :=
  packCmd_zero_eq_cmd _ w

theorem encode_rdhex_eq_cmd (i : BitVec 6) :
    encode (.rdhex i) = .cmd w ↔ field w 24 8 = 0x04#8 ∧ field w 6 18 = 0#18 ∧ i = field w 0 6 :=
  packCmd_eq_cmd rfl _ i w

theorem encode_rdh_eq_cmd (i : BitVec 3) :
    encode (.rdh i) = .cmd w ↔ field w 24 8 = 0x05#8 ∧ field w 3 21 = 0#21 ∧ i = field w 0 3 :=
  packCmd_eq_cmd rfl _ i w

theorem encode_rdstat_eq_cmd : encode .rdstat = .cmd w ↔ field w 24 8 = 0x06#8 ∧ field w 0 24 = 0#24 :=
  packCmd_zero_eq_cmd _ w

end

/-! ### Decoding (30_encoding.md R75) -/

/-- A word that decodes is the word of the command it decodes to. -/
theorem encode_of_decodeCmd {w : BitVec 32} {i : Instr} (h : decodeCmd w = .ok i) : encode i = .cmd w := by
  unfold decodeCmd at h
  split at h
  case isTrue hw => cases h; exact (encode_clr_eq_cmd w).mpr hw
  split at h
  case isTrue hw => cases h; exact (encode_push_eq_cmd w _).mpr ⟨hw.1, hw.2, rfl⟩
  split at h
  case isTrue hw => cases h; exact (encode_hash_eq_cmd w).mpr hw
  split at h
  case isTrue hw => cases h; exact (encode_rdhex_eq_cmd w _).mpr ⟨hw.1, hw.2, rfl⟩
  split at h
  case isTrue hw => cases h; exact (encode_rdh_eq_cmd w _).mpr ⟨hw.1, hw.2, rfl⟩
  split at h
  case isTrue hw => cases h; exact (encode_rdstat_eq_cmd w).mpr hw
  cases h

/-- The word of a command decodes to that command. -/
theorem decodeCmd_of_encode {w : BitVec 32} {i : Instr} (hl : i.level = .hostCommand) (h : encode i = .cmd w) :
    decodeCmd w = .ok i := by
  cases i
  case clr => simp [decodeCmd, (encode_clr_eq_cmd w).mp h]
  case push c =>
    obtain ⟨hop, hres, rfl⟩ := (encode_push_eq_cmd w c).mp h
    simp [decodeCmd, hop, hres]
  case hash => simp [decodeCmd, (encode_hash_eq_cmd w).mp h]
  case rdhex c =>
    obtain ⟨hop, hres, rfl⟩ := (encode_rdhex_eq_cmd w c).mp h
    simp [decodeCmd, hop, hres]
  case rdh c =>
    obtain ⟨hop, hres, rfl⟩ := (encode_rdh_eq_cmd w c).mp h
    simp [decodeCmd, hop, hres]
  case rdstat => simp [decodeCmd, (encode_rdstat_eq_cmd w).mp h]
  all_goals cases hl

/-- Decoding is the inverse of encoding. -/
theorem decodeCmd_eq_ok_iff {w : BitVec 32} {i : Instr} (hl : i.level = .hostCommand) :
    decodeCmd w = .ok i ↔ encode i = .cmd w :=
  ⟨encode_of_decodeCmd, decodeCmd_of_encode hl⟩

section
variable (w : BitVec 32)

theorem decodeCmd_eq_clr_iff : decodeCmd w = .ok .clr ↔ field w 24 8 = 0x01#8 ∧ field w 0 24 = 0#24 :=
  (decodeCmd_eq_ok_iff rfl).trans (encode_clr_eq_cmd w)

theorem decodeCmd_eq_push_iff (c : BitVec 16) :
    decodeCmd w = .ok (.push c) ↔ field w 24 8 = 0x02#8 ∧ field w 16 8 = 0#8 ∧ c = field w 0 16 :=
  (decodeCmd_eq_ok_iff rfl).trans (encode_push_eq_cmd w c)

theorem decodeCmd_eq_hash_iff : decodeCmd w = .ok .hash ↔ field w 24 8 = 0x03#8 ∧ field w 0 24 = 0#24 :=
  (decodeCmd_eq_ok_iff rfl).trans (encode_hash_eq_cmd w)

theorem decodeCmd_eq_rdhex_iff (i : BitVec 6) :
    decodeCmd w = .ok (.rdhex i) ↔ field w 24 8 = 0x04#8 ∧ field w 6 18 = 0#18 ∧ i = field w 0 6 :=
  (decodeCmd_eq_ok_iff rfl).trans (encode_rdhex_eq_cmd w i)

theorem decodeCmd_eq_rdh_iff (i : BitVec 3) :
    decodeCmd w = .ok (.rdh i) ↔ field w 24 8 = 0x05#8 ∧ field w 3 21 = 0#21 ∧ i = field w 0 3 :=
  (decodeCmd_eq_ok_iff rfl).trans (encode_rdh_eq_cmd w i)

theorem decodeCmd_eq_rdstat_iff : decodeCmd w = .ok .rdstat ↔ field w 24 8 = 0x06#8 ∧ field w 0 24 = 0#24 :=
  (decodeCmd_eq_ok_iff rfl).trans (encode_rdstat_eq_cmd w)

end

/-- A test of the decoder's chain fails where the chain reports an error. -/
theorem ite_ok_eq_error {p : Prop} [Decidable p] {i : Instr} {x : Except DecodeError Instr} {e : DecodeError} :
    (if p then .ok i else x) = .error e ↔ ¬p ∧ x = .error e := by
  split <;> simp [*]

/-- A word is illegal when all six tests fail. -/
theorem decodeCmd_eq_error_iff (w : BitVec 32) (e : DecodeError) :
    decodeCmd w = .error e ↔
      ¬(field w 24 8 = 0x01#8 ∧ field w 0 24 = 0#24) ∧ ¬(field w 24 8 = 0x02#8 ∧ field w 16 8 = 0#8) ∧
      ¬(field w 24 8 = 0x03#8 ∧ field w 0 24 = 0#24) ∧ ¬(field w 24 8 = 0x04#8 ∧ field w 6 18 = 0#18) ∧
      ¬(field w 24 8 = 0x05#8 ∧ field w 3 21 = 0#21) ∧ ¬(field w 24 8 = 0x06#8 ∧ field w 0 24 = 0#24) ∧
      .illegalCommand w = e := by
  simp only [decodeCmd, ite_ok_eq_error, Except.error.injEq]

/-- A host command has a command word. -/
theorem encode_hostCommand {i : Instr} (hl : i.level = .hostCommand) : ∃ w, encode i = .cmd w := by
  cases i
  case clr | push | hash | rdhex | rdh | rdstat => exact ⟨_, rfl⟩
  all_goals cases hl

/-- Settles O3: decoding inverts encoding, and the word of each command is known by its fields. -/
theorem hostDecodeIsSevenWay : Obligations.HostDecodeIsSevenWay := by
  refine ⟨fun w => ⟨decodeCmd_eq_clr_iff w, decodeCmd_eq_push_iff w, decodeCmd_eq_hash_iff w,
    decodeCmd_eq_rdhex_iff w, decodeCmd_eq_rdh_iff w, decodeCmd_eq_rdstat_iff w, ?_,
    fun i h => ⟨decodeCmd_level h, encode_of_decodeCmd h⟩⟩,
    fun i hl => ?_, rfl, rfl, rfl, packCmd_eq_add (by decide) 0x02#8, packCmd_eq_add (by decide) 0x04#8,
    packCmd_eq_add (by decide) 0x05#8⟩
  · simp only [decodeCmd_eq_error_iff, and_true]
  · obtain ⟨w, hw⟩ := encode_hostCommand hl
    rw [hw]
    exact decodeCmd_of_encode hl hw

/-! ### Match and mask (30_encoding.md R73) -/

/-- A mask that leaves out the lowest `k` bits keeps every field above them. -/
theorem field_and_mask_high {n k lo len : Nat} (w : BitVec n) (hk : k ≤ lo) (h : lo + len ≤ n) :
    field (w &&& BitVec.allOnes n <<< k) lo len = field w lo len := by
  apply BitVec.eq_of_getLsbD_eq
  intro i hi
  have hlt : lo + i < n := by omega
  have hle : ¬lo + i < k := by omega
  simp [field, hi, hlt, hle]

/-- A mask that leaves out the lowest `k` bits clears them. -/
theorem field_and_mask_low {n : Nat} (k : Nat) (w : BitVec n) : field (w &&& BitVec.allOnes n <<< k) 0 k = 0#k := by
  apply BitVec.eq_of_getLsbD_eq
  intro i hi
  simp [field, hi]

/-- Under the mask that leaves out the operand, a word is the code's word when it has that code and zero reserved
bits. -/
theorem and_mask_eq_match {k m : Nat} (h : m + k = 24) (op : BitVec 8) (w : BitVec 32) :
    w &&& BitVec.allOnes 32 <<< k = op ++ 0#24 ↔ field w 24 8 = op ∧ field w k m = 0#m := by
  have hpack := packCmd_eq_cmd h op 0#k (w &&& BitVec.allOnes 32 <<< k)
  rw [field_and_mask_high w (by omega) (by decide), field_and_mask_high w (Nat.le_refl k) (by omega),
    field_and_mask_low, packCmd, ControlWord.cmd.injEq, eq_comm] at hpack
  simpa using hpack

/-- A command word in a row has the row's match under the row's mask. -/
theorem and_eq_of_inRowOf {w v mask : BitVec 32} {i : Instr} (hrow : tableRow i = (.cmd v, .cmd mask))
    (h : (ControlWord.cmd w).inRowOf i = true) : w &&& mask = v := by
  simpa [ControlWord.inRowOf, ControlWord.and?, hrow] using h

section
variable (w : BitVec 32)

theorem decodeCmd_clr_iff_mask : decodeCmd w = .ok .clr ↔ w &&& 0xFFFFFFFF = 0x01000000 :=
  (decodeCmd_eq_clr_iff w).trans (and_mask_eq_match (k := 0) rfl 0x01#8 w).symm

theorem decodeCmd_push_iff_mask : (∃ c, decodeCmd w = .ok (.push c)) ↔ w &&& 0xFFFF0000 = 0x02000000 := by
  simp only [decodeCmd_eq_push_iff, exists_and_left, exists_eq, and_true]
  exact (and_mask_eq_match (k := 16) rfl 0x02#8 w).symm

theorem decodeCmd_hash_iff_mask : decodeCmd w = .ok .hash ↔ w &&& 0xFFFFFFFF = 0x03000000 :=
  (decodeCmd_eq_hash_iff w).trans (and_mask_eq_match (k := 0) rfl 0x03#8 w).symm

theorem decodeCmd_rdhex_iff_mask : (∃ i, decodeCmd w = .ok (.rdhex i)) ↔ w &&& 0xFFFFFFC0 = 0x04000000 := by
  simp only [decodeCmd_eq_rdhex_iff, exists_and_left, exists_eq, and_true]
  exact (and_mask_eq_match (k := 6) rfl 0x04#8 w).symm

theorem decodeCmd_rdh_iff_mask : (∃ i, decodeCmd w = .ok (.rdh i)) ↔ w &&& 0xFFFFFFF8 = 0x05000000 := by
  simp only [decodeCmd_eq_rdh_iff, exists_and_left, exists_eq, and_true]
  exact (and_mask_eq_match (k := 3) rfl 0x05#8 w).symm

theorem decodeCmd_rdstat_iff_mask : decodeCmd w = .ok .rdstat ↔ w &&& 0xFFFFFFFF = 0x06000000 :=
  (decodeCmd_eq_rdstat_iff w).trans (and_mask_eq_match (k := 0) rfl 0x06#8 w).symm

/-- A word in the row of a host command decodes to a command of that row. -/
theorem decodeCmd_of_inRowOf {i : Instr} (hl : i.level = .hostCommand) (h : (ControlWord.cmd w).inRowOf i = true) :
    ∃ i', decodeCmd w = .ok i' ∧ tableRow i' = tableRow i := by
  cases i
  case clr => exact ⟨_, (decodeCmd_clr_iff_mask w).mpr (and_eq_of_inRowOf rfl h), rfl⟩
  case push =>
    obtain ⟨c, hc⟩ := (decodeCmd_push_iff_mask w).mpr (and_eq_of_inRowOf rfl h)
    exact ⟨_, hc, rfl⟩
  case hash => exact ⟨_, (decodeCmd_hash_iff_mask w).mpr (and_eq_of_inRowOf rfl h), rfl⟩
  case rdhex =>
    obtain ⟨c, hc⟩ := (decodeCmd_rdhex_iff_mask w).mpr (and_eq_of_inRowOf rfl h)
    exact ⟨_, hc, rfl⟩
  case rdh =>
    obtain ⟨c, hc⟩ := (decodeCmd_rdh_iff_mask w).mpr (and_eq_of_inRowOf rfl h)
    exact ⟨_, hc, rfl⟩
  case rdstat => exact ⟨_, (decodeCmd_rdstat_iff_mask w).mpr (and_eq_of_inRowOf rfl h), rfl⟩
  all_goals cases hl

end

/-- Settles O4: each row's mask leaves out the operand, and a word in two rows decodes to one command. -/
theorem hostCommandMatchAndMask : Obligations.HostCommandMatchAndMask := by
  refine ⟨fun w => ⟨decodeCmd_clr_iff_mask w, decodeCmd_push_iff_mask w, decodeCmd_hash_iff_mask w,
    decodeCmd_rdhex_iff_mask w, decodeCmd_rdh_iff_mask w, decodeCmd_rdstat_iff_mask w⟩,
    fun i j hi hj w hwi hwj => ?_, by decide⟩
  obtain ⟨i', hdi, hrow⟩ := decodeCmd_of_inRowOf w hi hwi
  obtain ⟨j', hdj, hrow'⟩ := decodeCmd_of_inRowOf w hj hwj
  obtain rfl : i' = j' := Except.ok.inj (hdi.symm.trans hdj)
  exact hrow.symm.trans hrow'

/-! ### Illegal words (30_encoding.md R74; 60_exceptions.md R212) -/

/-- An operation code is one of the six assigned ones, 0, or above them. -/
theorem op_cases (op : BitVec 8) : op = 0x00#8 ∨ op = 0x01#8 ∨ op = 0x02#8 ∨ op = 0x03#8 ∨ op = 0x04#8 ∨
    op = 0x05#8 ∨ op = 0x06#8 ∨ 0x07 ≤ op.toNat := by
  bv_omega

/-- Which words are illegal, by the operation code. -/
theorem exists_decodeCmd_error_iff (w : BitVec 32) :
    (∃ e, decodeCmd w = .error e) ↔
      field w 24 8 = 0x00#8 ∨ 0x07 ≤ (field w 24 8).toNat ∨
      ((field w 24 8 = 0x01#8 ∨ field w 24 8 = 0x03#8 ∨ field w 24 8 = 0x06#8) ∧ field w 0 24 ≠ 0#24) ∨
      (field w 24 8 = 0x02#8 ∧ field w 16 8 ≠ 0#8) ∨ (field w 24 8 = 0x04#8 ∧ field w 6 18 ≠ 0#18) ∨
      (field w 24 8 = 0x05#8 ∧ field w 3 21 ≠ 0#21) := by
  simp only [decodeCmd_eq_error_iff, exists_and_left, exists_eq', and_true]
  rcases op_cases (field w 24 8) with h | h | h | h | h | h | h | hop
  iterate 7 · simp [h]
  have hne : ∀ op : BitVec 8, op.toNat < 7 → field w 24 8 ≠ op := by
    rintro _ hlt rfl
    omega
  simp [hop, hne]

theorem issueCmd_of_error {w : BitVec 32} {e : DecodeError} (h : decodeCmd w = .error e) (s : State) :
    issueCmd w s = .next s.illegalWord := by
  simp [issueCmd, h]

/-- Settles O5: the illegal words by operation code, and what an illegal word does by mode. -/
theorem illegalWordsFault : Obligations.IllegalWordsFault := by
  intro w s
  refine ⟨exists_decodeCmd_error_iff w, fun ⟨e, he⟩ => ?_⟩
  rw [issueCmd_of_error he]
  rcases s.illegalWord_cases with ⟨hm, hw⟩ | ⟨hm, hw⟩
  · rw [hw, if_pos hm]; rfl
  · rw [hw, if_neg hm]; rfl

end Sys2Proof.Machine
end

section
/-! SUPPORT. The word unit (40_word_unit.md): each word function bit by bit, and from the bits its laws, its corner
cases and the statements about its instructions. -/

namespace Sys2Proof.Machine

/-! ### Bits of the word functions -/

section
variable (x y z : Word) (i : Nat)

@[simp] theorem getLsbD_wordAnd : (wordAnd x y).getLsbD i = (x.getLsbD i && y.getLsbD i) := BitVec.getLsbD_and

@[simp] theorem getLsbD_wordXor : (wordXor x y).getLsbD i = (x.getLsbD i ^^ y.getLsbD i) := BitVec.getLsbD_xor

theorem getLsbD_wordNot {i : Nat} (hi : i < 32) : (wordNot x).getLsbD i = !x.getLsbD i := by
  simp [wordNot, hi]

@[simp] theorem getLsbD_wordShr (n : BitVec 5) : (wordShr n x).getLsbD i = x.getLsbD (i + n.toNat) := by
  rw [wordShr, BitVec.getLsbD_ushiftRight, Nat.add_comm]

/-- `ROTR` is the rotation of bit vectors, the case of amount 0 included (40_word_unit.md R104). -/
theorem wordRotr_eq_rotateRight (n : BitVec 5) : wordRotr n x = x.rotateRight n.toNat := by
  rw [BitVec.rotateRight_eq_rotateRightAux_of_lt n.isLt, BitVec.rotateRightAux, wordRotr]
  split
  case isTrue h =>
    subst h
    simp
  case isFalse => rfl

theorem getLsbD_wordRotr (n : BitVec 5) {i : Nat} (hi : i < 32) :
    (wordRotr n x).getLsbD i = x.getLsbD ((i + n.toNat) % 32) := by
  have hn : n.toNat < 32 := n.isLt
  rw [wordRotr_eq_rotateRight, BitVec.getLsbD_rotateRight_of_lt hn]
  by_cases h : i < 32 - n.toNat
  · have hmod : (i + n.toNat) % 32 = n.toNat + i := by omega
    simp [h, hmod]
  · have hmod : (i + n.toNat) % 32 = i - (32 - n.toNat) := by omega
    simp [h, hi, hmod]

@[simp] theorem getLsbD_wordMaj :
    (wordMaj x y z).getLsbD i = majority (x.getLsbD i) (y.getLsbD i) (z.getLsbD i) := by
  have hxor : ∀ a b c : Bool, ((a && b) ^^ (a && c) ^^ (b && c)) = majority a b c := by decide
  simp only [wordMaj, getLsbD_wordXor, getLsbD_wordAnd, hxor]

theorem getLsbD_wordCh {i : Nat} (hi : i < 32) :
    (wordCh x y z).getLsbD i = if x.getLsbD i then y.getLsbD i else z.getLsbD i := by
  simp only [wordCh, getLsbD_wordXor, getLsbD_wordAnd, getLsbD_wordNot x hi]
  cases x.getLsbD i <;> simp

end

/-- The word of 32 ones, as the library writes it. -/
theorem ones_eq_allOnes : (0xFFFFFFFF : Word) = BitVec.allOnes 32 := rfl

/-! ### `AND`, `NOT` and `XOR` (40_word_unit.md R101 to R103) -/

/-- Exclusive or of two bits is their sum modulo 2. -/
theorem toNat_xor_eq_add_mod (a b : Bool) : (a ^^ b).toNat = (a.toNat + b.toNat) % 2 := by
  revert a b; decide

/-- Settles O9: each function bit by bit, and its laws as laws of bit vectors. -/
theorem bitwiseFunctions : Obligations.BitwiseFunctions := by
  refine ⟨⟨fun s => ⟨wordAnd s.wu.x s.wu.y, rfl, rfl, fun i _ => getLsbD_wordAnd _ _ i⟩, rfl, fun x => ?_, by decide⟩,
    ⟨fun s => ⟨wordNot s.wu.x, rfl, BitVec.toNat_not, fun i hi => getLsbD_wordNot _ hi⟩, rfl, by decide, by decide,
      fun x => BitVec.not_not, by decide⟩,
    ⟨fun s => ⟨wordXor s.wu.x s.wu.y, rfl, fun i _ => ?_⟩, rfl, fun x y z => ?_, by decide⟩⟩
  · exact ⟨BitVec.and_zero, BitVec.and_allOnes, BitVec.and_self⟩
  · rw [getLsbD_wordXor, toNat_xor_eq_add_mod]
  · exact ⟨BitVec.xor_self, BitVec.xor_zero, BitVec.xor_allOnes, BitVec.xor_comm x y, BitVec.xor_assoc x y z⟩

/-! ### `ROTR` and `SHR` (40_word_unit.md R104, R105) -/

theorem wordRotr_of_one_le {n : BitVec 5} (h : 1 ≤ n.toNat) (x : Word) :
    wordRotr n x = (x >>> n.toNat) ||| (x <<< (32 - n.toNat)) := by
  have hn : n ≠ 0#5 := by rintro rfl; simp at h
  rw [wordRotr, if_neg hn]

/-- Rotations compose by adding the amounts modulo 32, as 5-bit amounts add (40_word_unit.md R104). -/
theorem wordRotr_wordRotr (m n : BitVec 5) (x : Word) : wordRotr n (wordRotr m x) = wordRotr (m + n) x := by
  refine BitVec.eq_of_getLsbD_eq fun i hi => ?_
  have hmod : ((i + n.toNat) % 32 + m.toNat) % 32 = (i + (m + n).toNat) % 32 := by
    rw [BitVec.toNat_add]
    omega
  rw [getLsbD_wordRotr _ n hi, getLsbD_wordRotr _ m (Nat.mod_lt _ (by decide)), getLsbD_wordRotr _ _ hi, hmod]

theorem wordRotr_zeros (n : BitVec 5) : wordRotr n 0 = 0 := by
  simp [wordRotr]

theorem wordRotr_ones (n : BitVec 5) : wordRotr n 0xFFFFFFFF = 0xFFFFFFFF := by
  refine BitVec.eq_of_getLsbD_eq fun i hi => ?_
  have hmod : (i + n.toNat) % 32 < 32 := Nat.mod_lt _ (by decide)
  simp only [ones_eq_allOnes, getLsbD_wordRotr _ n hi, BitVec.getLsbD_allOnes, hi, hmod]

/-- Settles O10: `ROTR` permutes the bit positions; composition adds the amounts. -/
theorem rotrRotates : Obligations.RotrRotates :=
  ⟨fun s n => ⟨wordRotr n s.wu.x, rfl, fun h => if_pos h, fun h => wordRotr_of_one_le h s.wu.x,
      fun _ hi => getLsbD_wordRotr _ n hi⟩,
    fun _ => rfl,
    fun m n x => ⟨rfl, wordRotr_wordRotr m n x, wordRotr_zeros n, wordRotr_ones n⟩,
    by decide, by decide⟩

/-- A shift by 31 leaves the highest bit alone (40_word_unit.md R105). -/
theorem wordShr_31 (x : Word) : wordShr 31 x = (field x 31 1).zeroExtend 32 := by
  apply BitVec.eq_of_toNat_eq
  have hx : x.toNat < 2 ^ 32 := x.isLt
  simp [wordShr, field, Nat.shiftRight_eq_div_pow]
  omega

/-- Settles O11: a shift is a division by a power of two, and no bit lies above bit 31. -/
theorem shrIsLogical : Obligations.ShrIsLogical := by
  refine ⟨fun s n => ⟨wordShr n s.wu.x, rfl, ?_, fun i hi => ?_⟩, fun _ => rfl, fun x => ⟨?_, wordShr_31 x⟩,
    by decide, by decide⟩
  · rw [wordShr, BitVec.toNat_ushiftRight, Nat.shiftRight_eq_div_pow]
  · rw [getLsbD_wordShr]
    split
    case isTrue => rfl
    case isFalse h => exact BitVec.getLsbD_of_ge _ _ (by omega)
  · exact BitVec.ushiftRight_zero x

/-! ### `MAJ` and `CH` (40_word_unit.md R107 to R109) -/

theorem majority_swap_left (a b c : Bool) : majority a b c = majority b a c := by revert a b c; decide

theorem majority_swap_right (a b c : Bool) : majority a b c = majority a c b := by revert a b c; decide

@[simp] theorem majority_self (a c : Bool) : majority a a c = a := by revert a c; decide

@[simp] theorem majority_false (a b : Bool) : majority a b false = (a && b) := by revert a b; decide

@[simp] theorem majority_true (a b : Bool) : majority a b true = (a || b) := by revert a b; decide

section
variable (x y z : Word)

theorem wordMaj_swap_left : wordMaj x y z = wordMaj y x z := by
  refine BitVec.eq_of_getLsbD_eq fun i _ => ?_
  rw [getLsbD_wordMaj, getLsbD_wordMaj, majority_swap_left]

theorem wordMaj_swap_right : wordMaj x y z = wordMaj x z y := by
  refine BitVec.eq_of_getLsbD_eq fun i _ => ?_
  rw [getLsbD_wordMaj, getLsbD_wordMaj, majority_swap_right]

theorem wordMaj_self : wordMaj x x z = x := by
  refine BitVec.eq_of_getLsbD_eq fun i _ => ?_
  rw [getLsbD_wordMaj, majority_self]

/-- With a zero vote `MAJ` is `AND` (40_word_unit.md R108). -/
theorem wordMaj_zeros : wordMaj x y 0 = wordAnd x y := by
  simp [wordMaj, wordXor, wordAnd]

/-- With a one vote `MAJ` is inclusive or (40_word_unit.md R108). -/
theorem wordMaj_ones : wordMaj x y 0xFFFFFFFF = x ||| y := by
  refine BitVec.eq_of_getLsbD_eq fun i hi => ?_
  simp only [ones_eq_allOnes, getLsbD_wordMaj, BitVec.getLsbD_allOnes, hi, decide_true, majority_true,
    BitVec.getLsbD_or]

end

/-- Settles O13: the majority of bits has the truth table of R107 and its laws hold bit by bit. -/
theorem majIsMajorityOfBits : Obligations.MajIsMajorityOfBits :=
  ⟨fun s => ⟨wordMaj s.wu.x s.wu.y s.wu.z, rfl, fun i _ => getLsbD_wordMaj _ _ _ i, rfl⟩, rfl,
    fun _ _ _ => rfl, rfl, rfl, rfl, rfl, rfl, rfl, rfl, rfl,
    fun x y z => ⟨wordMaj_swap_left x y z, wordMaj_swap_right x y z, wordMaj_self x z, wordMaj_zeros x y,
      wordMaj_ones x y⟩,
    by decide⟩

/-- The two terms of `CH` have no bit in common (40_word_unit.md R109). -/
theorem and_and_not_and (x y z : Word) : (x &&& y) &&& (~~~x &&& z) = 0 := by
  refine BitVec.eq_of_getLsbD_eq fun i hi => ?_
  cases h : x.getLsbD i <;> simp [h]

section
variable (x y z : Word)

theorem wordCh_ones : wordCh 0xFFFFFFFF y z = y := by
  refine BitVec.eq_of_getLsbD_eq fun i hi => ?_
  rw [ones_eq_allOnes, getLsbD_wordCh _ _ _ hi, BitVec.getLsbD_allOnes, if_pos (decide_eq_true hi)]

theorem wordCh_zeros : wordCh 0 y z = z := by
  refine BitVec.eq_of_getLsbD_eq fun i hi => ?_
  rw [getLsbD_wordCh _ _ _ hi, if_neg (by simp)]

theorem wordCh_self : wordCh x y y = y := by
  refine BitVec.eq_of_getLsbD_eq fun i hi => ?_
  rw [getLsbD_wordCh _ _ _ hi, ite_self]

end

/-- Settles O14: a bit of `X` selects the bit of `Y` or of `Z`. -/
theorem chChooses : Obligations.ChChooses :=
  ⟨fun s => ⟨wordCh s.wu.x s.wu.y s.wu.z, rfl, rfl, fun _ hi => getLsbD_wordCh _ _ _ hi⟩, rfl,
    fun x y z => ⟨wordCh_ones y z, wordCh_zeros y z, wordCh_self x y, and_and_not_and x y z⟩, by decide⟩

/-! ### The four sigmas (40_word_unit.md R110 to R113) -/

theorem wordXor_wordXor_wordXor_comm (a b c d : Word) :
    wordXor (wordXor a b) (wordXor c d) = wordXor (wordXor a c) (wordXor b d) := by
  simp only [wordXor]
  ac_rfl

/-- A function of one word is linear over `XOR`. -/
def XorLinear (f : Word → Word) : Prop := ∀ x y, f (wordXor x y) = wordXor (f x) (f y)

theorem xorLinear_wordRotr (n : BitVec 5) : XorLinear (wordRotr n) := by
  intro x y
  refine BitVec.eq_of_getLsbD_eq fun i hi => ?_
  simp only [getLsbD_wordXor, getLsbD_wordRotr _ n hi]

theorem xorLinear_wordShr (n : BitVec 5) : XorLinear (wordShr n) := fun x y =>
  BitVec.ushiftRight_xor_distrib x y n.toNat

/-- The exclusive or of two linear functions is linear. -/
theorem XorLinear.xor {f g : Word → Word} (hf : XorLinear f) (hg : XorLinear g) :
    XorLinear fun x => wordXor (f x) (g x) := by
  intro x y
  simp only [hf x y, hg x y, wordXor_wordXor_wordXor_comm (f x)]

theorem xorLinear_wordSsig0 : XorLinear wordSsig0 :=
  ((xorLinear_wordRotr 7).xor (xorLinear_wordRotr 18)).xor (xorLinear_wordShr 3)

theorem xorLinear_wordSsig1 : XorLinear wordSsig1 :=
  ((xorLinear_wordRotr 17).xor (xorLinear_wordRotr 19)).xor (xorLinear_wordShr 10)

theorem xorLinear_wordBsig0 : XorLinear wordBsig0 :=
  ((xorLinear_wordRotr 2).xor (xorLinear_wordRotr 13)).xor (xorLinear_wordRotr 22)

theorem xorLinear_wordBsig1 : XorLinear wordBsig1 :=
  ((xorLinear_wordRotr 6).xor (xorLinear_wordRotr 11)).xor (xorLinear_wordRotr 25)

/-- Settles O15: rotations and shifts are linear, so their exclusive or is. -/
theorem smallSigmas : Obligations.SmallSigmas :=
  ⟨⟨fun _ => rfl, rfl, by decide, by decide, xorLinear_wordSsig0, by decide, by decide, by decide⟩,
    ⟨fun _ => rfl, rfl, by decide, by decide, xorLinear_wordSsig1, by decide, by decide, by decide⟩⟩

/-- Settles O16: rotations are linear, so their exclusive or is. -/
theorem bigSigmas : Obligations.BigSigmas :=
  ⟨⟨fun _ => rfl, rfl, by decide, by decide, xorLinear_wordBsig0, by decide, by decide, by decide, by decide⟩,
    ⟨fun _ => rfl, rfl, by decide, by decide, xorLinear_wordBsig1, by decide⟩⟩

end Sys2Proof.Machine
end

section
/-! The message schedule (42_schedule.md): what `WLOAD` and `WEXP` write, word by word, and the recurrence that the
schedule of a block satisfies. -/

namespace Sys2Proof.Machine

/-! ### `WLOAD` (42_schedule.md R150) -/

theorem getElem_loadSchedule_of_lt (block : Vector Word 16) (w : Vector Word 64) {t : Nat} (ht : t < 16) :
    (loadSchedule block w)[t] = block[t] := by
  simp [loadSchedule, ht]

theorem getElem_loadSchedule_of_le (block : Vector Word 16) (w : Vector Word 64) {t : Nat} (ht : t < 64)
    (h : 16 ≤ t) : (loadSchedule block w)[t] = w[t] := by
  simp [loadSchedule, Nat.not_lt.mpr h]

/-- Settles O24: the words below 16 come from the block, the others are kept. -/
theorem wloadCopiesBlock : Obligations.WloadCopiesBlock :=
  ⟨rfl, fun s => ⟨s.wload, rfl, rfl, fun _ hk => getElem_loadSchedule_of_lt s.BLKBUF s.W hk,
    fun k hk => getElem_loadSchedule_of_le s.BLKBUF s.W k.isLt hk⟩⟩

/-! ### `WEXP` (42_schedule.md R151) -/

section
variable (w : Vector Word 64) (i : Fin 64)

@[simp] theorem getElem_expandSchedule_same : (expandSchedule w i)[i.val] = expansionWord w i :=
  Vector.getElem_set_self _

theorem getElem_expandSchedule_other {t : Nat} (ht : t < 64) (h : t ≠ i.val) : (expandSchedule w i)[t] = w[t] :=
  Vector.getElem_set_ne _ _ h.symm

theorem sameBelow_expandSchedule : SameBelow i.val (expandSchedule w i) w := fun _ ht hlt =>
  getElem_expandSchedule_other w i ht (Nat.ne_of_lt hlt)

end

theorem exec_wexp {i : BitVec 6} (h : 16 ≤ i.toNat) (s : State) : exec (.wexp i) s = .next (s.wexp (index64 i)) :=
  if_pos h

/-- A `SEQ9` word with `USEL = 3` names `WEXP` exactly when its index is a derived one (30_encoding.md R80). -/
theorem decodeSeq_wexpWord (i : BitVec 6) :
    decodeSeq (3#3 ++ i) = if 16 ≤ i.toNat then .ok (.wexp i) else .error (.noMicroOperation (3#3 ++ i)) := by
  have husel : field (3#3 ++ i) 6 3 = 3#3 := BitVec.extractLsb'_append_eq_left
  have hidx : field (3#3 ++ i) 0 6 = i := BitVec.extractLsb'_append_eq_right
  simp [decodeSeq, husel, hidx]

/-! ### The schedule of a block (42_schedule.md R152) -/

/-- A derived word is the same on schedules that agree below it. -/
theorem SameBelow.expansionWord_eq {i : Fin 64} (hi : 16 ≤ i.val) {w w' : Vector Word 64}
    (h : SameBelow i.val w w') : expansionWord w i = expansionWord w' i := by
  simpa using h.expandOne hi i.val i.isLt (Nat.lt_succ_self _)

/-- The derived words below index `k` satisfy the recurrence. -/
def ExpandedBelow (k : Nat) (w : Vector Word 64) : Prop :=
  ∀ j : Fin 64, 16 ≤ j.val → j.val < k → w[j.val] = expansionWord w j

/-- `WEXP i` extends the expanded part by word `i`: neither word `i` nor the words below it read word `i`. -/
theorem ExpandedBelow.expandOne {i : Fin 64} {w : Vector Word 64} (h : ExpandedBelow i.val w) :
    ExpandedBelow (i.val + 1) (expandSchedule w i) := by
  intro j hj hlt
  have hword : expansionWord (expandSchedule w i) j = expansionWord w j :=
    SameBelow.expansionWord_eq hj fun t ht htj => sameBelow_expandSchedule w i t ht (by omega)
  rw [hword]
  by_cases hji : j = i
  · rw [hji, getElem_expandSchedule_same]
  · have hne : j.val ≠ i.val := Fin.val_ne_of_ne hji
    rw [getElem_expandSchedule_other w i j.isLt hne, h j hj (by omega)]

/-- A run of the expansion at rising indices extends the expanded part and keeps the words below it. -/
theorem ExpandedBelow.expandAll (l : List (Fin 64)) {k : Nat} (hl : l.map Fin.val = List.range' k l.length)
    {w : Vector Word 64} (h : ExpandedBelow k w) :
    ExpandedBelow (k + l.length) (l.foldl expandSchedule w) ∧ SameBelow k (l.foldl expandSchedule w) w := by
  induction l generalizing k w with
  | nil => exact ⟨h, fun _ _ _ => rfl⟩
  | cons i l ih =>
    rw [List.map_cons, List.length_cons, List.range'_succ, List.cons.injEq] at hl
    obtain ⟨rfl, hl⟩ := hl
    obtain ⟨hexpanded, hsame⟩ := ih hl h.expandOne
    refine ⟨?_, fun t ht hlt => ?_⟩
    · rwa [List.length_cons, Nat.add_comm l.length, ← Nat.add_assoc]
    · exact (hsame t ht (by omega)).trans (sameBelow_expandSchedule w i t ht hlt)

section
variable (block : Vector Word 16)

theorem schedule_expandedBelow_and_sameBelow :
    ExpandedBelow 64 (schedule block) ∧ SameBelow 16 (schedule block) (loadSchedule block (Vector.replicate 64 0#32)) :=
  ExpandedBelow.expandAll expandIndices expandIndices_val fun _ hle hlt => absurd hlt (Nat.not_lt.mpr hle)

/-- The first sixteen schedule words are the block. -/
theorem getElem_schedule_of_lt {t : Nat} (ht : t < 16) : (schedule block)[t] = block[t] :=
  ((schedule_expandedBelow_and_sameBelow block).2 t (by omega) ht).trans (getElem_loadSchedule_of_lt _ _ ht)

/-- The other schedule words satisfy the recurrence. -/
theorem getElem_schedule_of_le {t : Nat} (ht : t < 64) (h : 16 ≤ t) :
    (schedule block)[t] = (schedule block)[t - 16] + wordSsig0 (schedule block)[t - 15] + (schedule block)[t - 7]
      + wordSsig1 (schedule block)[t - 2] :=
  (schedule_expandedBelow_and_sameBelow block).1 ⟨t, ht⟩ h ht

end

/-- The all-zero block has the all-zero schedule (42_schedule.md R151). -/
theorem schedule_zeros : schedule (Vector.replicate 16 0) = Vector.replicate 64 0 := by
  refine Vector.ext fun t ht => ?_
  rw [Vector.getElem_replicate]
  induction t using Nat.strongRecOn with
  | ind t ih =>
    by_cases h : t < 16
    · rw [getElem_schedule_of_lt _ h, Vector.getElem_replicate]
    · rw [getElem_schedule_of_le _ ht (by omega), ih _ (by omega), ih _ (by omega), ih _ (by omega),
        ih _ (by omega)]
      decide

/-- Settles O25: the derived word is the recurrence's, and the examples follow from the recurrence. -/
theorem wexpExpands : Obligations.WexpExpands := by
  refine ⟨fun _ => rfl, fun s i hi => ⟨s.wexp (index64 i), exec_wexp hi s, rfl, ?_, fun k hk => ?_⟩, schedule_zeros,
    ?_, ?_, ?_, fun i hi => ⟨.noMicroOperation (3#3 ++ i), ?_⟩⟩
  · exact getElem_expandSchedule_same s.W (index64 i)
  · exact getElem_expandSchedule_other s.W (index64 i) k.isLt (Fin.val_ne_of_ne hk)
  iterate 3
    · simp (disch := decide) only [getElem_schedule_of_le, getElem_schedule_of_lt]
      decide
  · rw [decodeSeq_wexpWord, if_neg (Nat.not_le.mpr hi)]

end Sys2Proof.Machine
end

section
/-! The compression engine (43_compression.md): what `HINIT`, `RINIT`, `ROUND` and `HADD` leave, and the first round
of the message `abc` worked out. -/

namespace Sys2Proof.Machine

section
variable (s : State)

theorem exec_hinit : exec .hinit s = .next s.hinit := rfl

theorem exec_rinit : exec .rinit s = .next s.rinit := rfl

theorem exec_round (i : BitVec 6) : exec (.round i) s = .next (s.round (index64 i)) := rfl

theorem exec_hadd : exec .hadd s = .next s.hadd := rfl

end

/-- Settles O27: `HINIT` loads the table `IV` and the block count, whose corner cases are computed. -/
theorem hinitLoadsIv : Obligations.HinitLoadsIv :=
  ⟨rfl, exec_hinit, by decide, by decide, by decide, by decide, by decide, rfl, rfl⟩

/-- Settles O28: `RINIT` loads the working registers by `workOf`, which goes by position. -/
theorem rinitLoadsWorkingRegisters : Obligations.RinitLoadsWorkingRegisters :=
  ⟨rfl, rfl, rfl, rfl, exec_rinit⟩

/-! ### The first round of `abc` (43_compression.md R165) -/

theorem wordBsig1_workOf_IV_e : wordBsig1 (workOf IV).e = 0x3587272B := by decide

theorem wordCh_workOf_IV : wordCh (workOf IV).e (workOf IV).f (workOf IV).g = 0x1F85C98C := by decide

theorem wordBsig0_workOf_IV_a : wordBsig0 (workOf IV).a = 0xCE20B47E := by decide

theorem wordMaj_workOf_IV : wordMaj (workOf IV).a (workOf IV).b (workOf IV).c = 0x3A6FE667 := by decide

theorem K_zero : K[0] = 0x428A2F98 := by decide

/-- The four terms of `temp1` beside `h`, added up. -/
theorem temp1_first_round : temp1 (workOf IV) K[0] 0x61626380 = 0x54DA50E8 := by
  rw [temp1, wordBsig1_workOf_IV_e, wordCh_workOf_IV, K_zero]
  decide

theorem temp2_first_round : temp2 (workOf IV) = 0x08909AE5 := by
  rw [temp2, wordBsig0_workOf_IV_a, wordMaj_workOf_IV]
  decide

/-- The eight registers after the round, from `temp1` and `temp2`. -/
theorem roundWork_first_round :
    roundWork K[0] 0x61626380 (workOf IV) =
      { a := 0x5D6AEBCD, b := 0x6A09E667, c := 0xBB67AE85, d := 0x3C6EF372, e := 0xFA2A4622, f := 0x510E527F,
        g := 0x9B05688C, h := 0x1F83D9AB } := by
  rw [roundWork, temp1_first_round, temp2_first_round]
  decide

/-- Settles O29: `ROUND` is `roundWork` with the sums `temp1` and `temp2` of the old registers. -/
theorem roundComputes : Obligations.RoundComputes :=
  ⟨fun _ => rfl,
    fun s i => ⟨temp1 s.work K[index64 i] s.W[index64 i], temp2 s.work, rfl, rfl, exec_round s i⟩,
    wordBsig1_workOf_IV_e, wordCh_workOf_IV, wordBsig0_workOf_IV_a, wordMaj_workOf_IV, K_zero, temp1_first_round,
    temp2_first_round, roundWork_first_round⟩

/-- Settles O31: `HADD` is `addBack`, a sum word by word; the sums of the example are computed. -/
theorem haddAddsBack : Obligations.HaddAddsBack :=
  ⟨rfl, exec_hadd, by decide⟩

end Sys2Proof.Machine
end

section
/-! The formatter (44_formatter.md): the characters of the digest string, by word and by digit of the word. -/

namespace Sys2Proof.Machine

/-- Character `n` of `hex8` is the digit of nibble `n` (44_formatter.md R181). -/
@[simp] theorem getElem_hex8 (x : Word) {n : Nat} (hn : n < 8) : (hex8 x)[n] = hexDigit (nibble x ⟨n, hn⟩) :=
  Vector.getElem_ofFn hn

/-- The digest string joins the `hex8` of the words in their order: position `8 * i + n` divides by 8 into word `i` and
digit `n` (44_formatter.md R183). -/
theorem getElem_hexString (h : Vector Word 8) (i n : Fin 8) :
    (hexString h)[8 * i.val + n.val] = (hex8 h[i])[n] := by
  have hword : (8 * i.val + n.val) / 8 = i.val := by omega
  have hdigit : (8 * i.val + n.val) % 8 = n.val := by omega
  simp [hexString, hword, hdigit]

theorem exec_hexfmt (s : State) : exec .hexfmt s = .next s.hexfmt := rfl

/-- Settles O33: `HEXFMT` leaves `hexString` of the hash state, read word by word; the examples are computed. -/
theorem hexfmtRenders : Obligations.HexfmtRenders := by
  refine ⟨rfl, fun s => ⟨s.hexfmt, exec_hexfmt s, rfl, fun i n => ?_⟩, by decide, by decide, by decide, by decide⟩
  have hdigits : s.hexfmt.DIGEST[8 * i.val + n.val] = (hex8 s.H[i])[n] := by
    simp only [State.hexfmt_DIGEST, getElem_hexString]
  exact ⟨hdigits.trans (getElem_hex8 s.H[i] n.isLt), hdigits⟩

end Sys2Proof.Machine
end

section
/-! The host commands (45_host_commands.md): what each command does in each mode (R190, R196), `HASH` as its
micro-operations one after the other (R194), and the responses (R197 to R199). -/

namespace Sys2Proof.Machine

/-! ### `PUSH` (45_host_commands.md R192; 60_exceptions.md R215, R218) -/

section
variable {s : State} {c : BitVec 16}

theorem exec_push_of_done (hm : s.MODE = .done) : exec (.push c) s = .next (s.raise .sequenceError) :=
  State.inMode_raise _ (by simp [hm]) (by simp [hm])

theorem exec_push_of_load (hm : s.MODE = .load) : exec (.push c) s = s.pushLoad c :=
  State.inMode_run _ (by decide) hm

/-- The first check: a code above 255. -/
theorem exec_push_wide (hm : s.MODE = .load) (hc : 255 < c.toNat) :
    exec (.push c) s = .next (s.raise .invalidInputEncoding) := by
  rw [exec_push_of_load hm, State.pushLoad, if_pos (by simpa [isByteCode] using hc)]

/-- The second check: a full memory. -/
theorem exec_push_full (hm : s.MODE = .load) (hc : c.toNat ≤ 255) (hl : s.MLEN = s.msgMax.val) :
    exec (.push c) s = .next (s.raise .messageCapacity) := by
  rw [exec_push_of_load hm, State.pushLoad, if_neg (by simpa [isByteCode] using hc), if_pos hl]

/-- With both checks passed the byte is appended. -/
theorem exec_push_append (hm : s.MODE = .load) (hc : c.toNat ≤ 255) (hl : s.MLEN < s.msgMax.val) :
    exec (.push c) s = .next (s.append c) := by
  rw [exec_push_of_load hm, State.pushLoad, if_neg (by simpa [isByteCode] using hc), if_neg (by omega),
    if_neg (by omega)]

end

/-- Settles O38: the checks of `PUSH` in their order, then the append; a reserved bit makes the word illegal. -/
theorem pushOutcome : Obligations.PushOutcome := by
  refine ⟨packCmd_eq_add (by decide) 0x02#8, rfl, fun w hop hres => ?_, fun s c => ⟨exec_push_of_done,
    exec_push_wide, exec_push_full, fun hm hc hl => ⟨s.append c, exec_push_append hm hc hl, rfl,
      Mem.read_write_same _ _ _, fun a ha => Mem.read_write_other _ _ ha⟩⟩⟩
  rw [exists_decodeCmd_error_iff]
  exact .inr (.inr (.inr (.inl ⟨hop, hres⟩)))

/-! ### Instructions executed one after the other -/

theorem execAll_cons {s t : State} {i : Instr} (is : List Instr) (h : exec i s = .next t) :
    execAll (i :: is) s = execAll is t := by
  simp only [execAll, h]

theorem execAll_append {s t : State} {is : List Instr} (js : List Instr) (h : execAll is s = .next t) :
    execAll (is ++ js) s = execAll js t := by
  induction is generalizing s with
  | nil =>
    obtain rfl : s = t := Host.Outcome.next.inj h
    rfl
  | cons i is ih =>
    cases hi : exec i s with
    | next u =>
      rw [execAll_cons _ hi] at h
      rw [List.cons_append, execAll_cons _ hi, ih h]
    | fault f => simp [execAll, hi] at h
    | refused r => simp [execAll, hi] at h

/-- Where the instruction of each index performs `op` at that index, a run over a list of indices folds `op`. -/
theorem execAll_map {α : Type} {instr : α → Instr} {op : State → α → State} (l : List α)
    (h : ∀ a ∈ l, ∀ s, exec (instr a) s = .next (op s a)) (s : State) :
    execAll (l.map instr) s = .next (l.foldl op s) := by
  induction l generalizing s with
  | nil => rfl
  | cons a l ih =>
    rw [List.map_cons, execAll_cons _ (h a List.mem_cons_self s), ih fun b hb => h b (List.mem_cons_of_mem a hb)]
    rfl

/-! ### `HASH` is its micro-operations (45_host_commands.md R194) -/

/-- The derived schedule words are those from 16 on (42_schedule.md R151). -/
theorem le_of_mem_expandIndices {i : Fin 64} (h : i ∈ expandIndices) : 16 ≤ i.val := by
  have hmem : i.val ∈ expandIndices.map Fin.val := List.mem_map_of_mem h
  rw [expandIndices_val, List.mem_range'_1] at hmem
  exact hmem.1

theorem index64_ofNat (i : Fin 64) : index64 (BitVec.ofNat 6 i.val) = i :=
  Fin.ext (Nat.mod_eq_of_lt i.isLt)

theorem execAll_wexps (s : State) :
    execAll (expandIndices.map fun i => .wexp (BitVec.ofNat 6 i.val)) s =
      .next (expandIndices.foldl State.wexp s) := by
  refine execAll_map _ (fun i hi s => ?_) s
  have hidx : (BitVec.ofNat 6 i.val).toNat = i.val := Nat.mod_eq_of_lt i.isLt
  rw [exec_wexp (by rw [hidx]; exact le_of_mem_expandIndices hi), index64_ofNat]

theorem execAll_rounds (s : State) :
    execAll (roundIndices.map fun i => .round (BitVec.ofNat 6 i.val)) s =
      .next (roundIndices.foldl State.round s) :=
  execAll_map _ (fun i _ s => by rw [exec_round, index64_ofNat]) s

theorem messageReadable_hashBlock {s : State} (h : MessageReadable s) : MessageReadable s.hashBlock := by
  rw [State.hashBlock_eq]
  exact h

/-- The micro-operations of one block are one iteration of the block loop. -/
theorem execAll_blockTrace {s : State} (h : MessageReadable s) : execAll blockTrace s = .next s.hashBlock := by
  have hfetch : exec .blkfetch s = .next s.blkfetch := State.withMessage_next h
  have hload : execAll [.blkfetch, .wload] s = .next s.blkfetch.wload := execAll_cons _ hfetch
  have hexpand := (execAll_append _ hload).trans (execAll_wexps _)
  have hinit := execAll_append [.rinit] hexpand
  have hround := (execAll_append _ hinit).trans (execAll_rounds _)
  exact execAll_append [.hadd] hround

/-- The micro-operations of `n` blocks are `n` iterations of the block loop. -/
theorem execAll_blockTraces (n : Nat) {s : State} (h : MessageReadable s) :
    execAll (List.replicate n blockTrace).flatten s = .next (s.hashBlocks n) := by
  induction n generalizing s with
  | zero => rfl
  | succ n ih =>
    rw [List.replicate_succ, List.flatten_cons, execAll_append _ (execAll_blockTrace h),
      ih (messageReadable_hashBlock h)]
    rfl

/-- The trace of `HASH`, executed, is what `HASH` does before it enters `DONE`. -/
theorem execAll_microTrace {s : State} (h : MessageReadable s) :
    execAll (microTrace (blockCount s.MLEN)) s = .next s.hashRun := by
  have hinit : execAll [.hinit] s = .next s.hinit := rfl
  have hblocks := (execAll_append _ hinit).trans (execAll_blockTraces (blockCount s.MLEN) (s := s.hinit) h)
  exact execAll_append [.hexfmt] hblocks

/-- The trace of one block with its two inner loops written out as ranges of numbers. -/
theorem blockTrace_eq : blockTrace =
    [Instr.blkfetch, Instr.wload] ++ (List.range' 16 48).map (fun i => Instr.wexp (BitVec.ofNat 6 i)) ++
      [Instr.rinit] ++ (List.range 64).map (fun i => Instr.round (BitVec.ofNat 6 i)) ++ [Instr.hadd] := by
  have hround : roundIndices.map Fin.val = List.range 64 := List.map_coe_finRange_eq_range
  rw [blockTrace, ← expandIndices_val, ← hround, List.map_map, List.map_map]
  rfl

theorem exec_hash_of_done {s : State} (hm : s.MODE = .done) : exec .hash s = .next (s.raise .sequenceError) := by
  simp only [exec, execHash]
  exact State.inMode_raise _ (by simp [hm]) (by simp [hm])

theorem State.hashRun_frame (s : State) : s.hashRun.BLK = blockCount s.MLEN ∧ s.hashRun.NBLK = blockCount s.MLEN ∧
    s.hashRun.MSG = s.MSG ∧ s.hashRun.MLEN = s.MLEN := by
  obtain ⟨_, _, _, _, _, h, _⟩ := State.hashBlocks_frame s.hinit.NBLK s.hinit
  rw [State.hashRun, h]
  simp

/-! ### The example of R194: `HASH` of `abc` after reset -/

/-- The digest state of `abc` (45_host_commands.md R194). -/
theorem digestState_abc : digestState [0x61, 0x62, 0x63] =
    #v[0xBA7816BF, 0x8F01CFEA, 0x414140DE, 0x5DAE2223, 0xB00361A3, 0x96177A9C, 0xB410FF61, 0xF20015AD] := by
  decide +kernel

theorem messageReadable_append {s : State} (h : MessageReadable s) (hl : s.MLEN < s.msgMax.val) (c : BitVec 16) :
    MessageReadable (s.append c) := by
  obtain ⟨_, hwritten⟩ := h
  refine ⟨hl, fun i hi => ?_⟩
  rcases Nat.lt_succ_iff_lt_or_eq.mp hi with hlt | rfl
  · rw [State.append_MSG, Mem.read_write_other _ _ (Nat.ne_of_lt hlt)]
    exact hwritten i hlt
  · rw [State.append_MSG, Mem.read_write_same]
    rfl

theorem messageReadable_reset : MessageReadable State.reset :=
  ⟨Nat.zero_le _, fun _ hi => absurd hi (Nat.not_lt_zero _)⟩

/-- The reset state with `abc` pushed. -/
def pushedAbc : State := ((State.reset.append 0x61).append 0x62).append 0x63

theorem pushedAbc_readable : MessageReadable pushedAbc :=
  have ha := messageReadable_append messageReadable_reset (by decide) 0x61
  have hab := messageReadable_append ha (by decide) 0x62
  messageReadable_append hab (by decide) 0x63

theorem pushedAbc_message : pushedAbc.message = [0x61, 0x62, 0x63] := by
  simp only [pushedAbc, State.message_append]
  decide

theorem execAll_push_abc_hash :
    execAll [.push 0x61, .push 0x62, .push 0x63, .hash] State.reset = .next pushedAbc.hashed := by
  rw [execAll_cons _ (exec_push_append rfl (by decide) (by decide)),
    execAll_cons _ (exec_push_append rfl (by decide) (by decide)),
    execAll_cons _ (exec_push_append rfl (by decide) (by decide))]
  exact execAll_cons [] (execHash_load rfl pushedAbc_readable)

/-- Settles O40: the trace runs block by block as the block loop does, and `HASH` is the trace, then `DONE`. -/
theorem hashIsItsMicroOperations : Obligations.HashIsItsMicroOperations := by
  refine ⟨rfl, fun n => by rw [microTrace, blockTrace_eq], fun s hm hr => ?_, fun s hm => exec_hash_of_done hm,
    pushedAbc.hashed, execAll_push_abc_hash, ?_, ?_⟩
  · exact ⟨s.hashRun, execAll_microTrace hr, execHash_load hm hr, s.hashRun_frame⟩
  · rw [State.status, State.hashed_MODE, statusWord_done]
  · rw [State.hashed_H_eq_digestState pushedAbc_readable.1, pushedAbc_message, digestState_abc]

/-! ### `RDHEX` and `RDH` (45_host_commands.md R197, R198) -/

section
variable {s : State}

theorem exec_rdhex_of_done (hm : s.MODE = .done) (i : BitVec 6) :
    exec (.rdhex i) s = .next (s.respond (s.DIGEST[index64 i].zeroExtend 32)) := by
  simp only [exec, execRdhex]
  exact State.inMode_run _ (by decide) hm

theorem exec_rdhex_of_load (hm : s.MODE = .load) (i : BitVec 6) :
    exec (.rdhex i) s = .next (s.raise .sequenceError) := by
  simp only [exec, execRdhex]
  exact State.inMode_raise _ (by simp [hm]) (by simp [hm])

theorem exec_rdh_of_done (hm : s.MODE = .done) (i : BitVec 3) :
    exec (.rdh i) s = .next (s.respond s.H[index8 i]) := by
  simp only [exec, execRdh]
  exact State.inMode_run _ (by decide) hm

theorem exec_rdh_of_load (hm : s.MODE = .load) (i : BitVec 3) :
    exec (.rdh i) s = .next (s.raise .sequenceError) := by
  simp only [exec, execRdh]
  exact State.inMode_raise _ (by simp [hm]) (by simp [hm])

end

/-- Every character of a rendered digest is one of the sixteen codes (44_formatter.md R180). -/
theorem getElem_hexString_mem_HEXTAB (h : Vector Word 8) (j : Fin 64) : ∃ v : Fin 16, (hexString h)[j] = HEXTAB[v] :=
  ⟨_, Vector.getElem_ofFn j.isLt⟩

/-- Settles O44: the mode gate of the two commands, and the digits of the rendered digest word by word. -/
theorem digestReadsRespond : Obligations.DigestReadsRespond := by
  refine ⟨packCmd_eq_add (by decide) 0x04#8, packCmd_eq_add (by decide) 0x05#8,
    fun s i => ⟨fun hm => ⟨_, rfl, exec_rdhex_of_done hm i, exec_rdhex_of_done hm i⟩,
      fun hm => exec_rdhex_of_load hm i, fun hd => ?_⟩,
    fun s i => ⟨fun hm => ⟨_, rfl, exec_rdh_of_done hm i, exec_rdh_of_done hm i⟩,
      fun hm => exec_rdh_of_load hm i, fun hd n => ?_⟩,
    fun s hm hd hH => ⟨?_, ?_, ?_, ?_⟩⟩
  · rw [hd]
    exact getElem_hexString_mem_HEXTAB s.H (index64 i)
  · simp only [hd]
    exact getElem_hexString s.H (index8 i) n
  · have hval : s.DIGEST[index64 0] = 0x62 := by rw [hd, hH]; decide
    rw [issueCmd_of_decode (i := .rdhex 0) (by decide), exec_rdhex_of_done hm, hval]
    rfl
  · have hval : s.DIGEST[index64 63] = 0x64 := by rw [hd, hH]; decide
    rw [issueCmd_of_decode (i := .rdhex 63) (by decide), exec_rdhex_of_done hm, hval]
    rfl
  · have hval : s.H[index8 0] = 0xBA7816BF := by rw [hH]; decide
    rw [issueCmd_of_decode (i := .rdh 0) (by decide), exec_rdh_of_done hm, hval]
    rfl
  · have hval : s.H[index8 7] = 0xF20015AD := by rw [hH]; decide
    rw [issueCmd_of_decode (i := .rdh 7) (by decide), exec_rdh_of_done hm, hval]
    rfl

/-! ### `RDSTAT` (45_host_commands.md R199) -/

theorem exec_rdstat (s : State) : exec .rdstat s = .next (s.respond s.status) := rfl

section
variable {s : State}

theorem State.status_of_load (hm : s.MODE = .load) : s.status = 0 := by
  rw [State.status, hm, statusWord_load]

theorem State.status_of_done (hm : s.MODE = .done) : s.status = 1 := by
  rw [State.status, hm, statusWord_done]

theorem State.status_of_error (hm : s.MODE = .error) : s.status = statusWord .error s.ERRCODE := by
  rw [State.status, hm]

end

/-- In `ERROR` the status is `ERR` and the code in bits 11:8 (10_state.md R29). -/
theorem toNat_statusWord_error (code : BitVec 4) : (statusWord .error code).toNat = 2 + 256 * code.toNat := by
  revert code
  decide

/-- Settles O45: the response is the status of the mode, and the invariant leaves four codes in `ERROR`. -/
theorem rdstatResponds : Obligations.RdstatResponds := by
  refine ⟨rfl, fun s => ⟨exec_rdstat s, fun ⟨_, hcodes⟩ => ⟨State.status_of_load, State.status_of_done, fun hm => ?_⟩⟩,
    ?_, ?_⟩
  · rw [State.status_of_error hm]
    rcases hcodes hm with h | h | h | h
    all_goals rw [h]; decide
  · rw [exec_rdstat, State.status_of_load rfl]
    rfl
  · exact ⟨_, (execAll_cons _ (exec_push_wide rfl (by decide))).trans (execAll_cons _ (exec_rdstat _)), by decide⟩

/-! ### The table of commands and modes (45_host_commands.md R196) -/

section
variable {s : State} {w : BitVec 32} {e : DecodeError}

theorem issueCmd_illegal (hm : s.MODE ≠ .error) (h : decodeCmd w = .error e) :
    issueCmd w s = .next (s.raise .illegalCommand) := by
  rw [issueCmd_of_error h, State.illegalWord, if_neg hm]

theorem issueCmd_illegal_error_mode (hm : s.MODE = .error) (h : decodeCmd w = .error e) :
    issueCmd w s = .next s.noResponse := by
  rw [issueCmd_of_error h, State.illegalWord, if_pos hm]

theorem exec_hash_digest (hm : s.MODE = .load) (hr : MessageReadable s) :
    ∃ t, exec .hash s = .next t ∧ t.MODE = .done ∧ t.DIGEST = sha256 s.message := by
  refine ⟨s.hashed, execHash_load hm hr, s.hashed_MODE, ?_⟩
  rw [State.hashed_DIGEST, State.hashed_H_eq_digestState hr.1, sha256]

end

/-- Settles O47: the table row by row, one column per mode. -/
theorem commandTable : Obligations.CommandTable := by
  intro s
  refine ⟨fun _ _ => rfl, fun hm => ?_, fun hm => ?_, fun hm => ?_⟩
  case refine_1 =>
    have hne : s.MODE ≠ .error := by simp [hm]
    refine ⟨fun c hc hl => ⟨s.append c, exec_push_append hm hc hl, hm, s.message_append c⟩, fun _ => exec_push_wide hm,
      fun _ => exec_push_full hm, exec_hash_digest hm, exec_rdhex_of_load hm, exec_rdh_of_load hm, ?_,
      fun _ _ => issueCmd_illegal hne⟩
    rw [exec_rdstat, State.status_of_load hm]
  case refine_2 =>
    have hne : s.MODE ≠ .error := by simp [hm]
    refine ⟨fun _ => exec_push_of_done hm, exec_hash_of_done hm, exec_rdhex_of_done hm, exec_rdh_of_done hm, ?_,
      fun _ _ => issueCmd_illegal hne⟩
    rw [exec_rdstat, State.status_of_done hm]
  case refine_3 =>
    refine ⟨fun _ => exec_error_mode rfl hm (by simp) (by simp), exec_error_mode rfl hm (by simp) (by simp),
      fun _ => exec_error_mode rfl hm (by simp) (by simp), fun _ => exec_error_mode rfl hm (by simp) (by simp),
      ⟨s.status, exec_rdstat s, ?_⟩, fun _ _ => issueCmd_illegal_error_mode hm⟩
    rw [State.status_of_error hm, toNat_statusWord_error]

end Sys2Proof.Machine
end

section
/-! The faults of the host commands (60_exceptions.md): the one cause of each fault (R211), what a fault changes (R216),
the order of the checks (R218), and mode `ERROR` (R217). -/

namespace Sys2Proof.Machine

/-- The cause of each fault that a command word raises outside mode `ERROR` (60_exceptions.md R212 to R215, R219). -/
def FaultCause (s : State) (w : BitVec 32) : FaultName → Prop
  | .invalidInputEncoding => s.MODE = .load ∧ ∃ c, decodeCmd w = .ok (.push c) ∧ 256 ≤ c.toNat
  | .internalInvariantError => False
  | .illegalCommand => ∃ e, decodeCmd w = .error e
  | .sequenceError =>
    (s.MODE = .done ∧ ((∃ c, decodeCmd w = .ok (.push c)) ∨ decodeCmd w = .ok .hash)) ∨
      (s.MODE = .load ∧ ((∃ i, decodeCmd w = .ok (.rdhex i)) ∨ ∃ i, decodeCmd w = .ok (.rdh i)))
  | .messageCapacity => s.MODE = .load ∧ s.MLEN = s.msgMax.val ∧ ∃ c, decodeCmd w = .ok (.push c) ∧ c.toNat ≤ 255

section
variable {s t : State} {w : BitVec 32}

/-- A `PUSH` that faults does so by the mode, the code or the full memory (60_exceptions.md R218). -/
theorem exec_push_faults {c : BitVec 16} (h : exec (.push c) s = .next t) (hm : s.MODE ≠ .error)
    (ht : t.MODE = .error) :
    (s.MODE = .done ∧ t = s.raise .sequenceError) ∨
      (s.MODE = .load ∧ 255 < c.toNat ∧ t = s.raise .invalidInputEncoding) ∨
      (s.MODE = .load ∧ c.toNat ≤ 255 ∧ s.MLEN = s.msgMax.val ∧ t = s.raise .messageCapacity) := by
  cases hmode : s.MODE with
  | error => exact absurd hmode hm
  | done => exact .inl ⟨rfl, (Host.Outcome.next.inj ((exec_push_of_done hmode).symm.trans h)).symm⟩
  | load =>
    rcases State.pushLoad_cases ((exec_push_of_load hmode).symm.trans h) with ⟨hb, ht⟩ | ⟨hb, hl, ht⟩ | ⟨_, _, rfl⟩
    · exact .inr (.inl ⟨rfl, by simpa [isByteCode] using hb, ht⟩)
    · exact .inr (.inr ⟨rfl, by simpa [isByteCode] using hb, hl, ht⟩)
    · exact absurd ht hm

/-- A command word that ends in `ERROR` has raised a fault, and the fault has its cause. -/
theorem issueCmd_faults (hm : s.MODE ≠ .error) (h : issueCmd w s = .next t) (ht : t.MODE = .error) :
    ∃ f, FaultCause s w f ∧ t = s.raise f := by
  cases hd : decodeCmd w with
  | error e => exact ⟨.illegalCommand, ⟨e, hd⟩, (Host.Outcome.next.inj ((issueCmd_illegal hm hd).symm.trans h)).symm⟩
  | ok i =>
    have hlevel := decodeCmd_level hd
    rw [issueCmd_of_decode hd] at h
    cases i
    case clr =>
      obtain rfl : s.clear = t := Host.Outcome.next.inj h
      cases ht
    case push c =>
      rcases exec_push_faults h hm ht with ⟨hs, rfl⟩ | ⟨hs, hc, rfl⟩ | ⟨hs, hc, hl, rfl⟩
      · exact ⟨.sequenceError, .inl ⟨hs, .inl ⟨c, hd⟩⟩, rfl⟩
      · exact ⟨.invalidInputEncoding, ⟨hs, c, hd, hc⟩, rfl⟩
      · exact ⟨.messageCapacity, ⟨hs, hl, c, hd, hc⟩, rfl⟩
    case hash =>
      rcases execHash_cases h with ⟨he, _⟩ | ⟨hs, rfl⟩ | ⟨_, _, rfl⟩
      · exact absurd he hm
      · exact ⟨.sequenceError, .inl ⟨hs, .inr hd⟩, rfl⟩
      · cases s.hashed_MODE.symm.trans ht
    case rdhex i =>
      rcases execRdhex_cases h with ⟨he, _⟩ | ⟨hs, rfl⟩ | ⟨_, rfl⟩
      · exact absurd he hm
      · exact ⟨.sequenceError, .inr ⟨hs, .inl ⟨i, hd⟩⟩, rfl⟩
      · exact absurd ht hm
    case rdh i =>
      rcases execRdh_cases h with ⟨he, _⟩ | ⟨hs, rfl⟩ | ⟨_, rfl⟩
      · exact absurd he hm
      · exact ⟨.sequenceError, .inr ⟨hs, .inr ⟨i, hd⟩⟩, rfl⟩
      · exact absurd ht hm
    case rdstat =>
      obtain rfl := Host.Outcome.next.inj h
      exact absurd ht hm
    all_goals cases hlevel

end

/-- Settles O48: the state is the one that fault entry leaves, and no cause raises the reserved fault. -/
theorem faultsArePrecise : Obligations.FaultsArePrecise := by
  intro s t w hm h ht
  obtain ⟨f, hcause, rfl⟩ := issueCmd_faults hm h ht
  refine ⟨rfl, ?_, fun _ => rfl⟩
  cases f with
  | invalidInputEncoding => exact .inl rfl
  | internalInvariantError => exact hcause.elim
  | illegalCommand => exact .inr (.inl rfl)
  | sequenceError => exact .inr (.inr (.inl rfl))
  | messageCapacity => exact .inr (.inr (.inr rfl))

/-- Settles O49: fault by fault, its code and its cause. -/
theorem faultCodesAndCauses : Obligations.FaultCodesAndCauses := by
  refine ⟨⟨rfl, rfl, rfl, rfl, rfl⟩, fun s t w hm h ht => ?_⟩
  obtain ⟨f, hcause, rfl⟩ := issueCmd_faults hm h ht
  cases f with
  | invalidInputEncoding => exact .inl ⟨rfl, hcause⟩
  | internalInvariantError => exact hcause.elim
  | illegalCommand => exact .inr (.inl ⟨rfl, hcause⟩)
  | sequenceError => exact .inr (.inr (.inl ⟨rfl, hcause⟩))
  | messageCapacity => exact .inr (.inr (.inr ⟨rfl, hcause⟩))

/-- Settles O50: each check by the lemma of the command that makes it; the three examples decode to a `PUSH` of 256,
and to no command. -/
theorem faultPriority : Obligations.FaultPriority := by
  intro s
  have hpush : decodeCmd 0x02000100 = .ok (.push 256) := by decide
  have hillegal : decodeCmd 0x02FF0100 = .error (.illegalCommand 0x02FF0100) := by decide
  refine ⟨fun _ => issueCmd_error_mode, fun _ _ => issueCmd_illegal, fun _ _ hm hd => ?_, fun _ _ hm hd hc => ?_,
    fun _ _ hm hd hc hl => ?_, fun hm => ?_, fun hm _ => ?_, fun hm => issueCmd_illegal hm hillegal⟩
  · exact (issueCmd_of_decode hd s).trans (exec_push_of_done hm)
  · exact (issueCmd_of_decode hd s).trans (exec_push_wide hm hc)
  · exact (issueCmd_of_decode hd s).trans (exec_push_full hm hc hl)
  · exact (issueCmd_of_decode hpush s).trans (exec_push_of_done hm)
  · exact (issueCmd_of_decode hpush s).trans (exec_push_wide hm (by decide))

/-- Settles O51: `CLR` and `RDSTAT` are performed in every mode, and every other word is ignored. -/
theorem errorModeIgnores : Obligations.ErrorModeIgnores := fun s _ hm =>
  ⟨fun hd => issueCmd_of_decode hd s, fun hd => (issueCmd_of_decode hd s).trans (exec_rdstat s), issueCmd_error_mode hm⟩

end Sys2Proof.Machine
end

section
/-! Reset (70_reset_and_hazards.md): what each host command does as the first command after it (R243). -/

namespace Sys2Proof.Machine

@[simp] theorem State.message_clear (s : State) : s.clear.message = [] := rfl

theorem messageReadable_clear (s : State) : MessageReadable s.clear :=
  ⟨Nat.zero_le _, fun _ hi => absurd hi (Nat.not_lt_zero _)⟩

/-- Settles O37: the reset state is in mode `LOAD` with an empty message, and each command there goes by its lemma for
that mode. -/
theorem firstCommandsAfterReset : Obligations.FirstCommandsAfterReset := by
  intro s
  have hmode : s.clear.MODE = .load := s.clear_MODE
  refine ⟨rfl, ?_, fun c hc hroom => ⟨s.clear.append c, exec_push_append hmode hc hroom, hmode, rfl, ?_⟩, ?_, ?_,
    exec_rdhex_of_load hmode, exec_rdh_of_load hmode⟩
  · rw [exec_clr, s.clear_clear]
  · rw [State.message_append, s.message_clear]
    rfl
  · exact exec_hash_digest hmode (messageReadable_clear s)
  · rw [exec_rdstat, s.clear_status]
    rfl

end Sys2Proof.Machine
end

section
/-! The control words of the sequencer and of the word unit (30_encoding.md R78 to R80): decoding is the inverse of
encoding at all three levels, reserved words are refused, and the sequencer issues none. -/

namespace Sys2Proof.Machine

/-! ### Micro-operations (30_encoding.md R80) -/

/-- A packed `SEQ9` word is the one with those two fields. -/
theorem packSeq_eq_seq (usel : BitVec 3) (idx : BitVec 6) (w : BitVec 9) :
    packSeq usel idx = .seq w ↔ (field w 6 3).toNat = usel.toNat ∧ field w 0 6 = idx := by
  have husel : field (usel ++ idx) 6 3 = usel := BitVec.extractLsb'_append_eq_left
  have hidx : field (usel ++ idx) 0 6 = idx := BitVec.extractLsb'_append_eq_right
  rw [packSeq, ControlWord.seq.injEq, eq_iff_field_eq (k := 6) (m := 3) rfl, husel, hidx, BitVec.toNat_inj,
    eq_comm (a := usel), eq_comm (a := idx)]

/-- The word of a well-formed micro-operation decodes to it. -/
theorem decodeSeq_of_encode {w : BitVec 9} {i : Instr} (hl : i.level = .microOperation) (hwf : i.wf = true)
    (h : encode i = .seq w) : decodeSeq w = .ok i := by
  cases i
  case hinit | blkfetch | wload | rinit | hadd | hexfmt =>
    obtain ⟨husel, hidx⟩ := (packSeq_eq_seq _ _ w).mp h
    simp [decodeSeq, plainMicroOp, husel, hidx]
  case wexp k =>
    obtain ⟨husel, hidx⟩ := (packSeq_eq_seq _ k w).mp h
    have hk : 16 ≤ k.toNat := by simpa [Instr.wf] using hwf
    simp [decodeSeq, husel, hidx, hk]
  case round k =>
    obtain ⟨husel, hidx⟩ := (packSeq_eq_seq _ k w).mp h
    simp [decodeSeq, husel, hidx]
  all_goals cases hl

/-- A `SEQ9` word that decodes is the word of the well-formed micro-operation it decodes to. -/
theorem encode_of_decodeSeq {w : BitVec 9} {i : Instr} (h : decodeSeq w = .ok i) :
    i.wf = true ∧ encode i = .seq w := by
  unfold decodeSeq at h
  split at h
  -- the arms of `WEXP` and `ROUND`, the one no three bits reach, and those of the plain micro-operations
  case h_4 husel =>
    split at h
    case isTrue hidx =>
      cases h
      exact ⟨by simpa [Instr.wf] using hidx, (packSeq_eq_seq 3#3 _ w).mpr ⟨husel, rfl⟩⟩
    case isFalse => cases h
  case h_6 husel =>
    cases h
    exact ⟨rfl, (packSeq_eq_seq 5#3 _ w).mpr ⟨husel, rfl⟩⟩
  case h_9 => cases h
  all_goals
    obtain ⟨hidx, rfl⟩ := plainMicroOp_ok h
    exact ⟨rfl, (packSeq_eq_seq _ _ w).mpr ⟨‹_›, hidx⟩⟩

/-- A micro-operation has a `SEQ9` word. -/
theorem encode_microOperation {i : Instr} (hl : i.level = .microOperation) : ∃ w, encode i = .seq w := by
  cases i
  case hinit | blkfetch | wload | wexp | rinit | round | hadd | hexfmt => exact ⟨_, rfl⟩
  all_goals cases hl

/-! ### Word-unit functions (30_encoding.md R78, R79) -/

/-- A packed `WU9` word is the one with those two fields. -/
theorem packWu_eq_wu (fsel : BitVec 4) (amt : BitVec 5) (w : BitVec 9) :
    packWu fsel amt = .wu w ↔ (field w 5 4).toNat = fsel.toNat ∧ field w 0 5 = amt := by
  have hfsel : field (fsel ++ amt) 5 4 = fsel := BitVec.extractLsb'_append_eq_left
  have hamt : field (fsel ++ amt) 0 5 = amt := BitVec.extractLsb'_append_eq_right
  rw [packWu, ControlWord.wu.injEq, eq_iff_field_eq (k := 5) (m := 4) rfl, hfsel, hamt, BitVec.toNat_inj,
    eq_comm (a := fsel), eq_comm (a := amt)]

/-- The word of a word-unit function decodes to it. -/
theorem decodeWu_of_encode {w : BitVec 9} {i : Instr} (hl : i.level = .wordUnitFunction)
    (h : encode i = .wu w) : decodeWu w = .ok i := by
  cases i
  case and | not | xor | add | maj | ssig0 | ssig1 | bsig0 | bsig1 | ch =>
    obtain ⟨hfsel, hamt⟩ := (packWu_eq_wu _ _ w).mp h
    simp [decodeWu, plainFunction, hfsel, hamt]
  case rotr n | shr n =>
    obtain ⟨hfsel, hamt⟩ := (packWu_eq_wu _ n w).mp h
    simp [decodeWu, hfsel, hamt]
  all_goals cases hl

/-- A `WU9` word that decodes is the word of the function it decodes to. -/
theorem encode_of_decodeWu {w : BitVec 9} {i : Instr} (h : decodeWu w = .ok i) : i.wf = true ∧ encode i = .wu w := by
  unfold decodeWu at h
  split at h
  -- the arms of `ROTR` and `SHR`, the unassigned codes, and the arms of the plain functions
  case h_4 hfsel =>
    cases h
    exact ⟨rfl, (packWu_eq_wu 3#4 _ w).mpr ⟨hfsel, rfl⟩⟩
  case h_5 hfsel =>
    cases h
    exact ⟨rfl, (packWu_eq_wu 4#4 _ w).mpr ⟨hfsel, rfl⟩⟩
  case h_13 => cases h
  all_goals
    obtain ⟨hamt, rfl⟩ := plainFunction_ok h
    exact ⟨rfl, (packWu_eq_wu _ _ w).mpr ⟨‹_›, hamt⟩⟩

/-- A word-unit function has a `WU9` word. -/
theorem encode_wordUnitFunction {i : Instr} (hl : i.level = .wordUnitFunction) : ∃ w, encode i = .wu w := by
  cases i
  case and | not | xor | rotr | shr | add | maj | ssig0 | ssig1 | bsig0 | bsig1 | ch => exact ⟨_, rfl⟩
  all_goals cases hl

/-! ### All three levels -/

/-- Settles O1: level by level, from the fields of the packed word. -/
theorem decodeOfEncode : Obligations.DecodeOfEncode := by
  intro i hwf
  cases hl : i.level with
  | hostCommand =>
    obtain ⟨w, hw⟩ := encode_hostCommand hl
    rw [hw]
    exact decodeCmd_of_encode hl hw
  | microOperation =>
    obtain ⟨w, hw⟩ := encode_microOperation hl
    rw [hw]
    exact decodeSeq_of_encode hl hwf hw
  | wordUnitFunction =>
    obtain ⟨w, hw⟩ := encode_wordUnitFunction hl
    rw [hw]
    exact decodeWu_of_encode hl hw

/-- A host command is well-formed with every operand its field holds (30_encoding.md R71, R72). -/
theorem wf_of_hostCommand {i : Instr} (hl : i.level = .hostCommand) : i.wf = true := by
  cases i
  case clr | push | hash | rdhex | rdh | rdstat => rfl
  all_goals cases hl

/-- Settles O2: each decoder accepts a word on its two fields, which are the fields that the encoder packs. -/
theorem encodeOfDecode : Obligations.EncodeOfDecode := by
  intro c i h
  cases c with
  | cmd w => exact ⟨wf_of_hostCommand (decodeCmd_level h), encode_of_decodeCmd h⟩
  | seq w => exact encode_of_decodeSeq h
  | wu w => exact encode_of_decodeWu h

/-- Settles O6: ten fixed words, decoded. -/
theorem specWordsDecode : Obligations.SpecWordsDecode := by
  unfold Obligations.SpecWordsDecode
  decide

/-! ### Steps and refusals (00_scope.md R9; 93_implementation_defined.md U6) -/

theorem issueSeq_of_decode {w : BitVec 9} {i : Instr} (h : decodeSeq w = .ok i) (s : State) :
    issueSeq w s = exec i s := by
  simp [issueSeq, h]

theorem issueWu_of_decode {w : BitVec 9} {i : Instr} (h : decodeWu w = .ok i) (s : State) :
    issueWu w s = exec i s := by
  simp [issueWu, h]

/-- Settles O7: the step takes the event, and each kind of word issues the instruction it decodes to. -/
theorem stepRunsDecodedInstruction : Obligations.StepRunsDecodedInstruction := by
  intro s rest
  refine ⟨fun w i hd hs => ?_, fun w i hd hs => ?_, fun w x y z i hd hs => ?_, fun hs => step_cons hs, step_nil⟩
  · exact (step_cons hs).trans (issueCmd_of_decode hd _)
  · exact (step_cons hs).trans (issueSeq_of_decode hd _)
  · exact (step_cons hs).trans (issueWu_of_decode hd _)

/-- Settles O8: the bench refuses what does not decode, and the word of `WEXP i` below 16 does not. -/
theorem reservedControlWordsRefused : Obligations.ReservedControlWordsRefused := by
  intro s
  refine ⟨fun w e h => ?_, fun w e h => ?_, fun i hi => ⟨if_neg (Nat.not_le.mpr hi), .noMicroOperation (3#3 ++ i), ?_⟩⟩
  · simp [issueSeq, h]
  · simp [issueWu, h]
  · rw [decodeSeq_wexpWord, if_neg (Nat.not_le.mpr hi)]

/-! ### The sequencer (30_encoding.md R80) -/

theorem length_blockTrace : blockTrace.length = 116 := by
  rw [blockTrace_eq]
  simp

/-- What the sequencer issues for a block are micro-operations, and its `WEXP` start at 16. -/
theorem wf_of_mem_blockTrace {i : Instr} (h : i ∈ blockTrace) : i.level = .microOperation ∧ i.wf = true := by
  simp only [blockTrace, List.mem_append, List.mem_cons, List.mem_map, List.not_mem_nil, or_false] at h
  rcases h with ((((rfl | rfl) | ⟨k, hk, rfl⟩) | rfl) | ⟨k, _, rfl⟩) | rfl
  case inl.inl.inl.inr =>
    have hidx : (BitVec.ofNat 6 k.val).toNat = k.val := Nat.mod_eq_of_lt k.isLt
    have hwf : 16 ≤ (BitVec.ofNat 6 k.val).toNat := by rw [hidx]; exact le_of_mem_expandIndices hk
    exact ⟨rfl, by simpa only [Instr.wf, decide_eq_true_eq] using hwf⟩
  all_goals exact ⟨rfl, rfl⟩

theorem wf_of_mem_microTrace {n : Nat} {i : Instr} (h : i ∈ microTrace n) :
    i.level = .microOperation ∧ i.wf = true := by
  simp only [microTrace, List.mem_append, List.mem_singleton, List.mem_flatten, List.mem_replicate] at h
  rcases h with (rfl | ⟨_, ⟨_, rfl⟩, h⟩) | rfl
  · exact ⟨rfl, rfl⟩
  · exact wf_of_mem_blockTrace h
  · exact ⟨rfl, rfl⟩

/-- Settles O41: the trace is `n` traces of a block between two micro-operations, all well-formed. -/
theorem sequencerIssuesOnlyMicroOperations : Obligations.SequencerIssuesOnlyMicroOperations := by
  refine fun n => ⟨?_, fun i hi => ?_⟩
  · simp [microTrace, length_blockTrace]
    omega
  · obtain ⟨hlevel, hwf⟩ := wf_of_mem_microTrace hi
    exact ⟨hlevel, hwf, decodeOfEncode i hwf⟩

end Sys2Proof.Machine
end

section
/-! The invariants (10_state.md R37): every event keeps the engine's invariant, every event of the spec's host keeps
the digest's, and from a state of the invariant the host's event has a next state. -/

namespace Sys2Proof.Machine

section
variable {s : State}

/-! ### The engine's invariant (10_state.md R37 (a), (c), (d); R27) -/

theorem engineInv_clear (s : State) : EngineInv s.clear :=
  ⟨⟨rfl, fun _ => rfl, Nat.zero_le _⟩, ⟨fun _ => rfl, fun h => by cases h⟩,
    Nat.le_of_lt_succ Config.unwrittenT.isLt⟩

/-- Fault entry leaves one of the four codes that are raised (60_exceptions.md R211, R213). -/
theorem engineInv_raise (h : EngineInv s) {f : FaultName} (hf : f ≠ .internalInvariantError) :
    EngineInv (s.raise f) := by
  obtain ⟨hmessage, _, hcounter⟩ := h
  refine ⟨hmessage, ⟨fun hm => absurd rfl hm, fun _ => ?_⟩, hcounter⟩
  cases f with
  | invalidInputEncoding => exact .inl rfl
  | internalInvariantError => exact absurd rfl hf
  | illegalCommand => exact .inr (.inl rfl)
  | sequenceError => exact .inr (.inr (.inl rfl))
  | messageCapacity => exact .inr (.inr (.inr rfl))

/-- The appended byte is the one at the old length, so exactly the bytes below the new length are written. -/
theorem engineInv_append (h : EngineInv s) (hl : s.MLEN < s.msgMax.val) (c : BitVec 16) :
    EngineInv (s.append c) := by
  obtain ⟨⟨hwf, hwritten, _⟩, hstatus, hcounter⟩ := h
  refine ⟨⟨Mem.wf_write _ _ hwf, fun a => ?_, hl⟩, hstatus, hcounter⟩
  rw [State.append_MSG, State.append_MLEN]
  by_cases ha : a = s.MLEN
  · simp [ha]
  · rw [Mem.read_write_other _ _ ha, hwritten]
    exact decide_eq_decide.mpr (by omega)

/-- `HASH` leaves the message and the fault code, which is 0 in `LOAD`. -/
theorem engineInv_hashed (h : EngineInv s) (hm : s.MODE = .load) : EngineInv s.hashed := by
  obtain ⟨hmessage, ⟨hcode, _⟩, hcounter⟩ := h
  obtain ⟨_, _, _, _, T, hhashed, hT⟩ := s.hashed_frame
  rw [hhashed]
  exact ⟨hmessage, ⟨fun _ => hcode (by simp [hm]), fun he => by cases he⟩, hT hcounter⟩

theorem issueCmd_keeps_engineInv {t : State} {w : BitVec 32} (h : EngineInv s) (ht : issueCmd w s = .next t) :
    EngineInv t := by
  rcases commandWord_cases ht with
    ⟨_, rfl⟩ | ⟨_, rfl⟩ | ⟨_, _, f, hf, rfl⟩ | ⟨c, _, _, hl, rfl⟩ | ⟨_, hm, _, rfl⟩ | ⟨v, rfl⟩
  · exact engineInv_clear s
  · exact h
  · exact engineInv_raise h hf
  · exact engineInv_append h hl c
  · exact engineInv_hashed h hm
  · exact h

/-- The invariant speaks of nothing that a micro-operation writes but `T`. -/
theorem issueSeq_keeps_engineInv {t : State} {w : BitVec 9} (h : EngineInv s) (ht : issueSeq w s = .next t) :
    EngineInv t := by
  obtain ⟨i, hd, he⟩ := issueSeq_cases ht
  obtain ⟨⟨hMSG, hMLEN, hMODE, hERRCODE, hmax, _⟩, hT⟩ := microOperation_frame (decodeSeq_level hd) he
  obtain ⟨hmessage, hstatus, hcounter⟩ := h
  refine ⟨?_, ?_, hT hcounter⟩
  · rwa [MessageInv, hMSG, hMLEN, hmax]
  · rwa [StatusInv, hMODE, hERRCODE]

/-- The invariant does not speak of the ports. -/
theorem issueWu_keeps_engineInv {t : State} {w : BitVec 9} (h : EngineInv s) (ht : issueWu w s = .next t) :
    EngineInv t := by
  obtain ⟨i, hd, he⟩ := issueWu_cases ht
  obtain ⟨r, rfl⟩ := wordUnit_frame (decodeWu_level hd) he
  exact h

/-- Settles O55: the step takes an event, and each kind of event keeps the invariant. -/
theorem stepKeepsEngineInvariant : Obligations.StepKeepsEngineInvariant := by
  intro s t h hstep
  rcases step_cases hstep with ⟨_, rfl⟩ | ⟨e, rest, _, hissue⟩
  · exact h
  have htake : EngineInv (s.take rest) := h
  cases e with
  | rst =>
    obtain rfl : (s.take rest).clear = t := Host.Outcome.next.inj hissue
    exact engineInv_clear _
  | cmd w => exact issueCmd_keeps_engineInv htake hissue
  | seq w => exact issueSeq_keeps_engineInv htake hissue
  | wu w x y z =>
    have hdrive : EngineInv ((s.take rest).drive x y z) := h
    exact issueWu_keeps_engineInv hdrive hissue

/-! ### The host's invariant (10_state.md R37 (b)) -/

@[simp] theorem State.hashed_message (s : State) : s.hashed.message = s.message := by
  obtain ⟨_, _, _, _, _, h, _⟩ := s.hashed_frame
  rw [h]
  rfl

/-- Outside mode `DONE` nothing is said of the digest. -/
theorem digestInv_of_ne_done (hm : s.MODE ≠ .done) : DigestInv s := fun hd => absurd hd hm

theorem digestInv_hashed (hr : MessageReadable s) : DigestInv s.hashed := fun _ =>
  ⟨by rw [State.hashed_H_eq_digestState hr.1, State.hashed_message], State.hashed_DIGEST s⟩

/-- A command word keeps the digest's invariant: it leaves `DONE`, enters it by `HASH`, or touches no datapath. -/
theorem issueCmd_keeps_digestInv {t : State} {w : BitVec 32} (h : DigestInv s) (ht : issueCmd w s = .next t) :
    DigestInv t := by
  rcases commandWord_cases ht with
    ⟨_, rfl⟩ | ⟨_, rfl⟩ | ⟨_, _, f, _, rfl⟩ | ⟨c, _, hm, _, rfl⟩ | ⟨_, _, hr, rfl⟩ | ⟨v, rfl⟩
  · exact digestInv_of_ne_done (by simp)
  · exact h
  · exact digestInv_of_ne_done (by simp)
  · exact digestInv_of_ne_done (by simp [hm])
  · exact digestInv_hashed hr
  · exact h

@[simp] theorem State.hashed_stream (s : State) : s.hashed.stream = s.stream := by
  obtain ⟨_, _, _, _, _, h, _⟩ := s.hashed_frame
  rw [h]

/-- A command word leaves the events to come. -/
theorem issueCmd_stream {t : State} {w : BitVec 32} (h : issueCmd w s = .next t) : t.stream = s.stream := by
  rcases commandWord_cases h with
    ⟨_, rfl⟩ | ⟨_, rfl⟩ | ⟨_, _, f, _, rfl⟩ | ⟨c, _, _, _, rfl⟩ | ⟨_, _, _, rfl⟩ | ⟨v, rfl⟩
  case inr.inr.inr.inr.inl => exact s.hashed_stream
  all_goals rfl

/-- Settles O56: the host's events are `RST` and command words, which keep both invariants and the stream. -/
theorem stepKeepsDigestInvariant : Obligations.StepKeepsDigestInvariant := by
  intro s t ⟨hengine, hdigest, hhost⟩ hstep
  refine ⟨stepKeepsEngineInvariant s t hengine hstep, ?_⟩
  rcases step_cases hstep with ⟨_, rfl⟩ | ⟨e, rest, hs, hissue⟩
  · exact ⟨hdigest, hhost⟩
  rw [HostDriven, hs, List.forall_mem_cons] at hhost
  obtain ⟨he, hrest⟩ := hhost
  cases e with
  | rst =>
    obtain rfl : (s.take rest).clear = t := Host.Outcome.next.inj hissue
    exact ⟨digestInv_of_ne_done (by simp), hrest⟩
  | cmd w =>
    have htake : DigestInv (s.take rest) := hdigest
    have hstream : t.stream = rest := issueCmd_stream hissue
    exact ⟨issueCmd_keeps_digestInv htake hissue, by rwa [HostDriven, hstream]⟩
  | seq w => cases he
  | wu w x y z => cases he

/-- Settles O57: the reset state is a cleared one, in mode `LOAD` with no event to come. -/
theorem resetMeetsInvariants : Obligations.ResetMeetsInvariants :=
  have h : EngineInv State.reset := engineInv_clear State.reset
  ⟨h, h, digestInv_of_ne_done (by decide), List.forall_mem_nil _⟩

/-- Settles O36: the fields of the reset state. -/
theorem resetLeaves : Obligations.ResetLeaves :=
  ⟨rfl, rfl, rfl, statusWord_load _, fun _ => rfl, rfl, rfl⟩

/-! ### No command stops (60_exceptions.md section 3) -/

/-- The mode gate completes where the operation it guards does. -/
theorem State.inMode_completes {m : Mode} {run : State → Host.Outcome State Fault Refusal}
    (h : s.MODE = m → ∃ t, run s = .next t) : ∃ t, s.inMode m run = .next t := by
  by_cases he : s.MODE = .error
  · exact ⟨_, State.inMode_error run he⟩
  · by_cases hm : s.MODE = m
    · obtain ⟨t, ht⟩ := h hm
      exact ⟨t, by rw [State.inMode_run run (hm ▸ he) hm, ht]⟩
    · exact ⟨_, State.inMode_raise run he hm⟩

/-- `PUSH` completes where the message lies in the memory. -/
theorem State.pushLoad_completes (h : s.MLEN ≤ s.msgMax.val) (c : BitVec 16) : ∃ t, s.pushLoad c = .next t := by
  unfold State.pushLoad
  split
  · exact ⟨_, rfl⟩
  split
  · exact ⟨_, rfl⟩
  rw [if_neg (Nat.not_lt.mpr h)]
  exact ⟨_, rfl⟩

/-- On a readable message every host command completes. -/
theorem exec_hostCommand_completes (h : MessageReadable s) {i : Instr} (hl : i.level = .hostCommand) :
    ∃ t, exec i s = .next t := by
  cases i
  case clr => exact ⟨_, exec_clr s⟩
  case push c => exact State.inMode_completes fun _ => State.pushLoad_completes h.1 c
  case hash =>
    simp only [exec, execHash]
    exact State.inMode_completes fun _ => ⟨_, State.withMessage_next h⟩
  case rdhex | rdh =>
    simp only [exec, execRdhex, execRdh]
    exact State.inMode_completes fun _ => ⟨_, rfl⟩
  case rdstat => exact ⟨_, exec_rdstat s⟩
  all_goals cases hl

/-- On a readable message every command word completes, an illegal one too. -/
theorem issueCmd_completes (h : MessageReadable s) (w : BitVec 32) : ∃ t, issueCmd w s = .next t := by
  cases hd : decodeCmd w with
  | error e => exact ⟨_, issueCmd_of_error hd s⟩
  | ok i =>
    rw [issueCmd_of_decode hd]
    exact exec_hostCommand_completes h (decodeCmd_level hd)

end

/-- Settles O58: the invariant makes the message readable, and the host's events are `RST` and command words. -/
theorem hostNeverStops : Obligations.HostNeverStops := by
  intro s ⟨hmessage, _⟩ hhost
  cases hs : s.stream with
  | nil => exact ⟨s, step_nil hs⟩
  | cons e rest =>
    have he : isHostEvent e = true := hhost e (by simp [hs])
    rw [step_cons hs]
    cases e with
    | rst => exact ⟨_, rfl⟩
    | cmd w =>
      have hread : MessageReadable (s.take rest) := readable_of_messageInv hmessage
      exact issueCmd_completes hread w
    | seq w => cases he
    | wu w x y z => cases he

end Sys2Proof.Machine
end

section
/-! The ripple-carry reading of `ADD` (40_word_unit.md R106) and the frame of the word unit (30_encoding.md R78). -/

namespace Sys2Proof.Machine

/-- The carry of the ripple-carry adder is the carry of bit-vector addition. -/
theorem rippleCarry_eq_carry (x y : Word) (i : Nat) : rippleCarry x y i = BitVec.carry i x y false := by
  have hmajority : ∀ a b c : Bool, majority a b c = a.atLeastTwo b c := by decide
  induction i with
  | zero => exact BitVec.carry_zero.symm
  | succ i ih => rw [BitVec.carry_succ, rippleCarry, hmajority, ih]

/-- Each bit of the sum is the sum bit of the ripple-carry adder. -/
theorem getLsbD_wordAdd (x y : Word) {i : Nat} (hi : i < 32) : (wordAdd x y).getLsbD i = rippleSum x y i := by
  have hsum : ∀ a b c : Bool, (a ^^ (b ^^ c)) = decide ((a.toNat + b.toNat + c.toNat) % 2 = 1) := by decide
  rw [wordAdd, BitVec.getLsbD_add hi, rippleSum, rippleCarry_eq_carry, hsum]

/-- Settles O12: bit-vector addition is modular and a ripple-carry adder. -/
theorem addIsRippleCarryModuloWord : Obligations.AddIsRippleCarryModuloWord := by
  refine ⟨fun s => ⟨wordAdd s.wu.x s.wu.y, rfl, BitVec.toNat_add _ _, fun i hi => getLsbD_wordAdd _ _ hi⟩, rfl,
    fun x y z => ?_, by decide, by decide, by decide, by decide⟩
  exact ⟨BitVec.add_zero x, BitVec.add_comm x y, BitVec.add_assoc x y z⟩

/-- A word-unit function puts on the result port a function of the operand ports. -/
theorem wordUnit_result {i : Instr} (hl : i.level = .wordUnitFunction) :
    ∃ f : Word → Word → Word → Word, ∀ s : State, exec i s = .next (s.result (f s.wu.x s.wu.y s.wu.z)) := by
  cases i
  case and => exact ⟨fun x y _ => wordAnd x y, fun _ => rfl⟩
  case not => exact ⟨fun x _ _ => wordNot x, fun _ => rfl⟩
  case xor => exact ⟨fun x y _ => wordXor x y, fun _ => rfl⟩
  case rotr n => exact ⟨fun x _ _ => wordRotr n x, fun _ => rfl⟩
  case shr n => exact ⟨fun x _ _ => wordShr n x, fun _ => rfl⟩
  case add => exact ⟨fun x y _ => wordAdd x y, fun _ => rfl⟩
  case maj => exact ⟨wordMaj, fun _ => rfl⟩
  case ssig0 => exact ⟨fun x _ _ => wordSsig0 x, fun _ => rfl⟩
  case ssig1 => exact ⟨fun x _ _ => wordSsig1 x, fun _ => rfl⟩
  case bsig0 => exact ⟨fun x _ _ => wordBsig0 x, fun _ => rfl⟩
  case bsig1 => exact ⟨fun x _ _ => wordBsig1 x, fun _ => rfl⟩
  case ch => exact ⟨wordCh, fun _ => rfl⟩
  all_goals cases hl

/-- Settles O17: the result is a function of the operand ports, and nothing else is written. -/
theorem wordUnitFrame : Obligations.WordUnitFrame := by
  intro i hl s
  obtain ⟨f, hf⟩ := wordUnit_result hl
  refine ⟨s.result (f s.wu.x s.wu.y s.wu.z), hf s, rfl, rfl, rfl, rfl, rfl, rfl, rfl, rfl, rfl, rfl, rfl, rfl, rfl,
    rfl, rfl, rfl, rfl, fun _ => rfl, fun s' t' hx hy hz ht => ?_⟩
  obtain rfl := Host.Outcome.next.inj ((hf s').symm.trans ht)
  simp only [State.result_wu, hx, hy, hz]

end Sys2Proof.Machine
end

section
/-! The padding and `BLKFETCH` (41_padder.md): the number of zeros and the length of the padding (R137), the byte-level
form (R138), and what `BLKFETCH` delivers within and outside its precondition (R140). -/

namespace Sys2Proof.Machine

/-! ### The one formula (41_padder.md R137) -/

theorem zeroCount_lt (l : Nat) : zeroCount l < 512 := by
  unfold zeroCount
  omega

/-- Branch 1 (41_padder.md R133). -/
theorem zeroCount_of_lt {l : Nat} (h : l < 448) : zeroCount l = 447 - l := by
  unfold zeroCount
  omega

/-- Branch 2 (41_padder.md R134). -/
theorem zeroCount_of_le {l : Nat} (h : 448 ≤ l) (h' : l ≤ 512) : zeroCount l = 959 - l := by
  unfold zeroCount
  omega

/-- The zeros lead to the length field of a block (41_padder.md R135). -/
theorem add_zeroCount_mod (l : Nat) : (l + 1 + zeroCount l) % 512 = 448 := by
  unfold zeroCount
  omega

/-- No fewer zeros do (41_padder.md R135). -/
theorem mod_ne_of_lt_zeroCount {l k : Nat} (h : k < zeroCount l) : (l + 1 + k) % 512 ≠ 448 := by
  unfold zeroCount at h
  omega

section
variable {m : List Bool} (h : m.length < 2 ^ 64)
include h

theorem length_padBits : (padBits m).length = m.length + 1 + zeroCount m.length + 64 := by
  rw [padBits_eq_zeroCount h]
  simp only [List.length_append, List.length_singleton, List.length_replicate, length_lengthBits]

/-- The padding fills whole blocks (41_padder.md R137). -/
theorem length_padBits_eq_blocks : (padBits m).length = 512 * ((m.length + 64) / 512 + 1) := by
  rw [length_padBits h]
  unfold zeroCount
  omega

end

/-- Settles O19: the shape and the arithmetic of the one formula, and the examples computed. -/
theorem paddingBranchesAreOneFormula : Obligations.PaddingBranchesAreOneFormula := by
  refine ⟨fun m h => ⟨padBits_eq_zeroCount h, length_padBits h, length_padBits_eq_blocks h, zeroCount_lt _,
    fun hlt => ⟨zeroCount_of_lt hlt, ?_⟩, fun hle hle' => ⟨zeroCount_of_le hle hle', ?_⟩,
    fun _ => ⟨add_zeroCount_mod _, fun k => mod_ne_of_lt_zeroCount⟩⟩,
    by decide, by decide +kernel, by decide +kernel, by decide +kernel⟩
  · rw [length_padBits_eq_blocks h]
    omega
  · rw [length_padBits_eq_blocks h]
    omega

/-! ### The byte-level form (41_padder.md R138, R141) -/

/-- A list is read back index by index. -/
theorem map_range_getD (m : List Byte) : (List.range m.length).map (fun i => m.getD i 0) = m :=
  List.ext_getElem (by simp) (by simp +contextual)

/-- Settles O20: the bytes of the padding of a message given as a list. -/
theorem bytePaddingIsBitPadding : Obligations.BytePaddingIsBitPadding := by
  intro m h
  rw [← messageBits, messageBits_padBytes _ h, map_range_getD]

/-- Settles O21: the blocks of the padding of the message in memory. -/
theorem fetchedBlocksAreThePadding : Obligations.FetchedBlocksAreThePadding := fun s h =>
  map_padBlock_eq_blocksOfBits s.msgByte (State.bits_lt h)

/-! ### `BLKFETCH` (41_padder.md R140) -/

theorem exec_blkfetch {s : State} (h : MessageReadable s) : exec .blkfetch s = .next s.blkfetch :=
  State.withMessage_next h

/-- Four bytes of the length field, from the `k`-th on, are 32 bits of the length. -/
theorem wordOfBytes_lengthByte (l : BitVec 64) {k : Nat} (hk : k ≤ 4) :
    wordOfBytes (lengthByte l k) (lengthByte l (k + 1)) (lengthByte l (k + 2)) (lengthByte l (k + 3)) =
      l.extractLsb' (32 - 8 * k) 32 := by
  simp only [wordOfBytes, lengthByte]
  rw [BitVec.extractLsb'_append_extractLsb'_eq_extractLsb' (by omega),
    BitVec.extractLsb'_append_extractLsb'_eq_extractLsb' (by omega),
    BitVec.extractLsb'_append_extractLsb'_eq_extractLsb' (by omega)]
  congr 1
  omega

section
variable (msg : Nat → Byte) {n : Nat} (h : 8 * n < 2 ^ 64)
include h

/-- The last eight bytes of the padded message are the length field. -/
theorem padByte_length (q : Nat) :
    padByte msg n (64 * blockCount n - 8 + q) = lengthByte (BitVec.ofNat 64 (8 * n)) q := by
  have hend : n < 64 * blockCount n - 8 := by unfold blockCount; omega
  rw [padByte_of_lt _ _ h, if_neg (by omega), if_neg (by omega), if_neg (by omega), Nat.add_sub_cancel_left]

/-- The last two words of the last block are the two words of the length. -/
theorem padWord_length {j t : Nat} (hj : j + 1 = blockCount n) (ht : 14 ≤ t) (ht' : t ≤ 15) :
    padWord msg n j t = (BitVec.ofNat 64 (8 * n)).extractLsb' (32 * (15 - t)) 32 := by
  obtain ⟨k, hk, hbyte⟩ : ∃ k, 32 - 8 * k = 32 * (15 - t) ∧ 64 * j + 4 * t = 64 * blockCount n - 8 + k :=
    ⟨4 * t - 56, by omega, by omega⟩
  rw [padWord, hbyte]
  simp only [Nat.add_assoc, padByte_length msg h]
  rw [← hk]
  exact wordOfBytes_lengthByte _ (by omega)

end

/-- A word whose bytes all lie below the length is a word of the message (20_memory.md R54). -/
theorem padWord_message {s : State} (h : s.MLEN ≤ s.msgMax.val) {j t : Nat} (ht : 64 * j + 4 * t + 3 < s.MLEN) :
    padWord s.msgByte s.MLEN j t = s.memRead4 (64 * j + 4 * t) := by
  have hbyte : ∀ i, i < s.MLEN → padByte s.msgByte s.MLEN i = s.msgByte i := fun i hi => by
    rw [padByte_of_lt _ _ (State.bits_lt h), if_pos hi]
  rw [padWord, State.memRead4, hbyte _ (by omega), hbyte _ (by omega), hbyte _ (by omega), hbyte _ ht]

/-- Within the precondition word `t` of the block buffer is word `t` of block `BLK`. -/
theorem getElem_blkfetch_BLKBUF {s : State} (hb : s.BLK < s.NBLK) (hn : s.NBLK = blockCount s.MLEN) (t : Nat)
    (ht : t < 16) : s.blkfetch.BLKBUF[t] = padWord s.msgByte s.MLEN s.BLK t := by
  simp only [State.blkfetch_BLKBUF, State.fetchedBlock_of_ready hb hn, padBlock, Vector.getElem_ofFn]

/-- Settles O22: within the precondition the fetched block is a block of the padding, whose words are known. -/
theorem blkfetchDeliversBlock : Obligations.BlkfetchDeliversBlock := by
  refine ⟨fun s hr hb hn => ?_, fun s h hb hn => ⟨fun t ht => ?_, fun hlast => ⟨?_, ?_⟩⟩⟩
  · rw [exec_blkfetch hr, State.blkfetch, State.fetchedBlock_of_ready hb hn]
  · exact (getElem_blkfetch_BLKBUF hb hn t.val t.isLt).trans (padWord_message h ht)
  · have hbits := State.bits_lt h
    rw [getElem_blkfetch_BLKBUF hb hn, padWord_length _ hbits (hlast.trans hn) (by decide) (by decide)]
    simp [Nat.shiftRight_eq_div_pow]
    omega
  · have hbits := State.bits_lt h
    rw [getElem_blkfetch_BLKBUF hb hn, padWord_length _ hbits (hlast.trans hn) (by decide) (by decide)]
    simp

/-! ### States that no run reaches (10_state.md R25; 20_memory.md R50) -/

section
variable {s : State}

theorem State.messageFault_beyond (h : s.msgMax.val < s.MLEN) : s.messageFault = some .noSuchMessageByte := if_pos h

theorem State.messageFault_unwritten (h : s.MLEN ≤ s.msgMax.val) (hu : ∃ i, i < s.MLEN ∧ Mem.read s.MSG i = none) :
    s.messageFault = some .unwrittenMessageByte := by
  have hwritten : ¬s.messageWritten = true := by simpa [State.messageWritten] using hu
  rw [State.messageFault, if_neg (Nat.not_lt.mpr h), if_neg hwritten]

theorem State.withMessage_fault {f : Fault} (op : State → State) (h : s.messageFault = some f) :
    s.withMessage op = .fault f := by
  simp [State.withMessage, h]

theorem exec_hash_fault {f : Fault} (hm : s.MODE = .load) (h : s.messageFault = some f) :
    exec .hash s = .fault f := by
  simp only [exec, execHash]
  rw [State.inMode_run _ (by decide) hm, State.withMessage_fault _ h]

theorem exec_push_beyond {c : BitVec 16} (hm : s.MODE = .load) (hc : c.toNat ≤ 255) (h : s.msgMax.val < s.MLEN) :
    exec (.push c) s = .fault .noSuchMessageByte := by
  rw [exec_push_of_load hm, State.pushLoad, if_neg (by simpa [isByteCode] using hc), if_neg (by omega), if_pos h]

end

/-- Settles O23: `BLKFETCH` writes the block buffer and `BLK` alone, and each stop is the check of the message. -/
theorem outsidePreconditions : Obligations.OutsidePreconditions := by
  refine fun s => ⟨fun hr _ => ⟨s.blkfetch, exec_blkfetch hr, rfl⟩, fun h => ?_, fun h hu => ?_⟩
  · have hfault := State.messageFault_beyond h
    exact ⟨State.withMessage_fault _ hfault, fun hm =>
      ⟨exec_hash_fault hm hfault, fun _ hc => exec_push_beyond hm hc h⟩⟩
  · have hfault := State.messageFault_unwritten h hu
    exact ⟨State.withMessage_fault _ hfault, fun hm => exec_hash_fault hm hfault⟩

end Sys2Proof.Machine
end

section
/-! The datapath (42_schedule.md, 43_compression.md, 44_formatter.md): the schedule of a block, a round undone, one
iteration of the block loop, and the hash state read back from its digest string. -/

namespace Sys2Proof.Machine

/-- The expansion ends with `T = 64` (10_state.md R27). -/
theorem foldl_expandIndices_T (t : Nat) : expandIndices.foldl (fun _ i => i.val + 1) t = 64 := by
  have hmap := List.foldl_map (f := Fin.val) (g := fun (_ i : Nat) => i + 1) (l := expandIndices) (init := t)
  rw [← hmap, expandIndices_val]
  rfl

/-- Settles O26: the run of `WEXP` writes the schedule and `T`, and the schedule of the block satisfies the
recurrence. -/
theorem scheduleIsFunctionOfBlock : Obligations.ScheduleIsFunctionOfBlock := by
  refine ⟨fun s => ?_, fun B => ⟨fun _ hk => getElem_schedule_of_lt B hk, fun k => getElem_schedule_of_le B k.isLt⟩⟩
  rw [State.foldl_wexp]
  exact ⟨foldl_expandSchedule_loadSchedule s.BLKBUF s.W, foldl_expandIndices_T 16⟩

/-! ### A round undone (43_compression.md R165) -/

/-- `temp1` of the round that left the registers `r`: its `temp2` reads registers that the round only moved. -/
def undoneTemp1 (r : Work) : Word := r.a - (wordBsig0 r.b + wordMaj r.b r.c r.d)

/-- The registers before the round that left the registers `r`. -/
def undoRound (k wt : Word) (r : Work) : Work :=
  { a := r.b, b := r.c, c := r.d, d := r.e - undoneTemp1 r, e := r.f, f := r.g, g := r.h,
    h := undoneTemp1 r - wt - k - wordCh r.f r.g r.h - wordBsig1 r.f }

section
variable (k w : Word) (r : Work)

theorem undoneTemp1_roundWork : undoneTemp1 (roundWork k w r) = temp1 r k w := BitVec.add_sub_cancel _ _

theorem undoRound_roundWork : undoRound k w (roundWork k w r) = r := by
  rw [undoRound, undoneTemp1_roundWork]
  simp only [roundWork, temp1, wordAdd, BitVec.add_sub_cancel]

theorem temp1_undoRound : temp1 (undoRound k w r) k w = undoneTemp1 r := by
  simp only [temp1, undoRound, wordAdd, BitVec.sub_add_cancel]

theorem roundWork_undoRound : roundWork k w (undoRound k w r) = r := by
  rw [roundWork, temp1_undoRound]
  simp only [temp2, undoRound, undoneTemp1, wordAdd, BitVec.sub_add_cancel]

end

/-- Settles O30: `undoRound` is the inverse of the round. -/
theorem roundIsBijection : Obligations.RoundIsBijection := fun k w =>
  Function.bijective_iff_has_inverse.mpr ⟨undoRound k w, undoRound_roundWork k w, roundWork_undoRound k w⟩

/-! ### One iteration of the block loop (43_compression.md R168) -/

section
variable (s : State)

@[simp] theorem State.hashBlock_MODE : s.hashBlock.MODE = s.MODE := by rw [State.hashBlock_eq]
@[simp] theorem State.hashBlock_DIGEST : s.hashBlock.DIGEST = s.DIGEST := by rw [State.hashBlock_eq]
@[simp] theorem State.hashBlock_T : s.hashBlock.T = 64 := by rw [State.hashBlock_eq]

end

/-- Settles O32: within the precondition the fetched block is block `BLK`. -/
theorem blockIterationIsBlockfn : Obligations.BlockIterationIsBlockfn := by
  intro s hb hn
  refine ⟨?_, s.hashBlock_BLK, s.hashBlock_NBLK, s.hashBlock_MSG, s.hashBlock_MLEN, s.hashBlock_MODE,
    s.hashBlock_DIGEST, s.hashBlock_T⟩
  rw [State.hashBlock_H, State.fetchedBlock_of_ready hb hn]

/-! ### The digest string (44_formatter.md R180, R181, R184) -/

/-- A digit is determined by its code. -/
theorem hexDigit_injective : Function.Injective hexDigit := by
  unfold Function.Injective
  decide

/-- A word is determined by its nibbles: bit `i` is bit `i % 4` of nibble `7 - i / 4` (20_memory.md R56). -/
theorem eq_of_nibble_eq {x y : Word} (h : ∀ n, nibble x n = nibble y n) : x = y := by
  refine BitVec.eq_of_getLsbD_eq fun i hi => ?_
  have hfield := congrArg (·.getLsbD (i % 4)) (BitVec.toFin_injective (h ⟨7 - i / 4, by omega⟩))
  have hbit : 28 - 4 * (7 - i / 4) + i % 4 = i := by omega
  have hlt : i % 4 < 4 := by omega
  simpa [hbit, hlt] using hfield

theorem hex8_injective : Function.Injective hex8 := fun x y h =>
  eq_of_nibble_eq fun n => hexDigit_injective <| by
    rw [← getElem_hex8 x n.isLt, ← getElem_hex8 y n.isLt, h]

theorem hexString_injective : Function.Injective hexString := fun h h' heq =>
  Vector.ext fun i hi => hex8_injective <| Vector.ext fun n hn => by
    have hchar := getElem_hexString h ⟨i, hi⟩ ⟨n, hn⟩
    simp only [heq, getElem_hexString h' ⟨i, hi⟩ ⟨n, hn⟩] at hchar
    exact hchar.symm

theorem HEXTAB_range (v : Fin 16) : (0x30 ≤ HEXTAB[v].toNat ∧ HEXTAB[v].toNat ≤ 0x39) ∨
    (0x61 ≤ HEXTAB[v].toNat ∧ HEXTAB[v].toNat ≤ 0x66) := by
  revert v
  decide

/-- Settles O34: each character is a code of the table, and digits, words and the string are read back. -/
theorem digestStringDeterminesState : Obligations.DigestStringDeterminesState := by
  refine ⟨fun h j => ?_, fun h h' heq => hexString_injective heq⟩
  obtain ⟨v, hv⟩ := getElem_hexString_mem_HEXTAB h j
  rw [hv]
  exact HEXTAB_range v

end Sys2Proof.Machine
end

section
/-! What `PUSH`, `HASH` and the micro-operations leave as it is (10_state.md R20; 20_memory.md R52), and the digest that
`HASH` leaves (45_host_commands.md R195). -/

namespace Sys2Proof.Machine

/-- Settles O39: `PUSH` is ignored, raises a fault, or appends. -/
theorem pushFrame : Obligations.PushFrame := by
  intro s t c h
  rcases execPush_cases h with ⟨_, rfl⟩ | ⟨_, f, _, rfl⟩ | ⟨_, _, _, rfl⟩
  case inr.inr =>
    exact ⟨rfl, rfl, rfl, rfl, rfl, rfl, rfl, rfl, rfl, rfl, rfl, fun _ ha => Mem.read_write_other _ _ ha,
      Mem.wf_write _ _⟩
  all_goals exact ⟨rfl, rfl, rfl, rfl, rfl, rfl, rfl, rfl, rfl, rfl, rfl, fun _ _ => rfl, id⟩

/-- Wherever `HASH` completes in `LOAD` it leaves the digest of the message (45_host_commands.md R195). -/
theorem hash_leaves_digest {s t : State} (hm : s.MODE = .load) (h : exec .hash s = .next t) :
    t.H = digestState s.message ∧ t.DIGEST = sha256 s.message := by
  rcases execHash_cases h with ⟨he, _⟩ | ⟨hd, _⟩ | ⟨_, hr, rfl⟩
  · cases hm.symm.trans he
  · cases hm.symm.trans hd
  · have hH := State.hashed_H_eq_digestState hr.1
    exact ⟨hH, by rw [State.hashed_DIGEST, hH, sha256]⟩

/-- Settles O42: on a readable message `HASH` completes, and what completes leaves the digest. -/
theorem hashComputesSha256 : Obligations.HashComputesSha256 := by
  intro s hm hr
  have hnext := execHash_load hm hr
  obtain ⟨hH, hD⟩ := hash_leaves_digest hm hnext
  exact ⟨s.hashed, hnext, hH, hD, s.hashed_MODE, s.hashed_message, rfl⟩

/-- Settles O43: `HASH` is ignored in `ERROR` and faults in `DONE`; in `LOAD` it writes no more than the frame of
`State.hashed` names. -/
theorem hashFrame : Obligations.HashFrame := by
  intro s t h
  rcases execHash_cases h with ⟨hm, rfl⟩ | ⟨hm, rfl⟩ | ⟨hm, _, rfl⟩
  · refine ⟨fun _ => rfl, rfl, rfl, rfl, rfl, fun _ => rfl, fun _ => ?_⟩
    rw [← hm]
    rfl
  · exact ⟨fun _ => rfl, rfl, rfl, rfl, rfl, fun hne => absurd hm hne, fun _ => rfl⟩
  · obtain ⟨_, _, _, _, _, hhashed, _⟩ := s.hashed_frame
    rw [hhashed]
    exact ⟨fun _ => rfl, rfl, rfl, rfl, rfl, fun _ => rfl, fun hne => absurd hm hne⟩

/-- All that a micro-operation can do when it completes (30_encoding.md R80). -/
theorem microOperation_cases {s t : State} {i : Instr} (hl : i.level = .microOperation) (h : exec i s = .next t) :
    (i = .hinit ∧ t = s.hinit) ∨ (i = .blkfetch ∧ t = s.blkfetch) ∨ (i = .wload ∧ t = s.wload) ∨
      (∃ k, i = .wexp k ∧ t = s.wexp (index64 k)) ∨ (i = .rinit ∧ t = s.rinit) ∨
      (∃ k, i = .round k ∧ t = s.round (index64 k)) ∨ (i = .hadd ∧ t = s.hadd) ∨ (i = .hexfmt ∧ t = s.hexfmt) := by
  cases i
  case hinit => exact .inl ⟨rfl, (Host.Outcome.next.inj h).symm⟩
  case blkfetch => exact .inr (.inl ⟨rfl, (State.withMessage_cases h).2⟩)
  case wload => exact .inr (.inr (.inl ⟨rfl, (Host.Outcome.next.inj h).symm⟩))
  case wexp k =>
    simp only [exec, execWexp] at h
    split at h
    · exact .inr (.inr (.inr (.inl ⟨k, rfl, (Host.Outcome.next.inj h).symm⟩)))
    · cases h
  case rinit => exact .inr (.inr (.inr (.inr (.inl ⟨rfl, (Host.Outcome.next.inj h).symm⟩))))
  case round k => exact .inr (.inr (.inr (.inr (.inr (.inl ⟨k, rfl, (Host.Outcome.next.inj h).symm⟩)))))
  case hadd => exact .inr (.inr (.inr (.inr (.inr (.inr (.inl ⟨rfl, (Host.Outcome.next.inj h).symm⟩))))))
  case hexfmt => exact .inr (.inr (.inr (.inr (.inr (.inr (.inr ⟨rfl, (Host.Outcome.next.inj h).symm⟩))))))
  all_goals cases hl

/-- Settles O53: outside the datapath nothing is written, and each micro-operation writes its own registers. -/
theorem microOperationFrame : Obligations.MicroOperationFrame := by
  intro i s t hl h
  obtain ⟨⟨hMSG, hMLEN, hMODE, hERRCODE, hmax, hwu, hresp, hstream⟩, _⟩ := microOperation_frame hl h
  refine ⟨fun a => by rw [hMSG], hMLEN, hMODE, hERRCODE, hmax, hwu, hresp, hstream, ?_⟩
  rcases microOperation_cases hl h with
    ⟨rfl, rfl⟩ | ⟨rfl, rfl⟩ | ⟨rfl, rfl⟩ | ⟨k, rfl, rfl⟩ | ⟨rfl, rfl⟩ | ⟨k, rfl, rfl⟩ | ⟨rfl, rfl⟩ | ⟨rfl, rfl⟩
  all_goals simp

/-- Settles O59: the digest that `HASH` leaves is a function of the message. -/
theorem digestDependsOnMessageOnly : Obligations.DigestDependsOnMessageOnly := by
  intro s s' t t' hm hm' hmsg ht ht'
  obtain ⟨hH, hD⟩ := hash_leaves_digest hm ht
  obtain ⟨hH', hD'⟩ := hash_leaves_digest hm' ht'
  exact ⟨by rw [hH, hH', hmsg], by rw [hD, hD', hmsg]⟩

end Sys2Proof.Machine
end

section
/-! The pseudo-instruction `SHA256` (30_encoding.md R83): the steps that its commands take, one part after the other,
and their responses. -/

namespace Sys2Proof.Machine

/-! ### Runs with responses -/

section
variable {s t u : State} {k l : Nat} {rs rs' : List (Option Word)}

theorem runResponses_succ (h : step s = .next t) (hrun : runResponses k t = some (u, rs)) :
    runResponses (k + 1) s = some (u, t.resp :: rs) := by
  simp [runResponses, h, hrun]

/-- A run that starts where another ends. -/
theorem runResponses_add (h : runResponses k s = some (t, rs)) (h' : runResponses l t = some (u, rs')) :
    runResponses (k + l) s = some (u, rs ++ rs') := by
  induction k generalizing s rs with
  | zero =>
    obtain ⟨rfl, rfl⟩ : s = t ∧ [] = rs := by simpa [runResponses] using h
    rwa [Nat.zero_add]
  | succ k ih =>
    cases hstep : step s with
    | next v =>
      obtain ⟨rs₁, hrest, rfl⟩ : ∃ rs₁, runResponses k v = some (t, rs₁) ∧ v.resp :: rs₁ = rs := by
        simpa [runResponses, hstep] using h
      rw [Nat.succ_add]
      exact runResponses_succ hstep (ih hrest)
    | fault f => simp [runResponses, hstep] at h
    | refused r => simp [runResponses, hstep] at h

end

theorem hostEvents_append (is js : List Instr) : hostEvents (is ++ js) = hostEvents is ++ hostEvents js :=
  List.filterMap_append

/-- A host command at the head of the stream is the next step. -/
theorem step_hostCommand {s : State} {i : Instr} {is : List Instr} {rest : List Event}
    (hl : i.level = .hostCommand) (hs : s.stream = hostEvents (i :: is) ++ rest) :
    step s = exec i (s.take (hostEvents is ++ rest)) := by
  obtain ⟨w, hw⟩ := encode_hostCommand hl
  have hevents : hostEvents (i :: is) = .cmd w :: hostEvents is := by simp [hostEvents, hw]
  rw [hevents] at hs
  exact (step_cons hs).trans (issueCmd_of_decode (decodeCmd_of_encode hl hw) _)

/-! ### The parts of `SHA256` -/

theorem toNat_zeroExtend_le (b : Byte) : (b.zeroExtend 16).toNat ≤ 255 := by
  have hb : b.toNat < 256 := b.isLt
  simp
  omega

theorem byteOfCode_zeroExtend (b : Byte) : byteOfCode (b.zeroExtend 16) = b := by
  simp [byteOfCode, BitVec.extractLsb'_setWidth_of_le]

/-- The pushes of a text that fits append it to the message and give no response. -/
theorem run_pushs (m : List Byte) {s : State} {rest : List Event} (hm : s.MODE = .load) (hr : MessageReadable s)
    (hroom : s.MLEN + m.length ≤ s.msgMax.val)
    (hs : s.stream = hostEvents (pushs (m.map fun b => b.zeroExtend 16)) ++ rest) :
    ∃ t, runResponses m.length s = some (t, List.replicate m.length none) ∧ t.MODE = .load ∧ MessageReadable t ∧
      t.message = s.message ++ m ∧ t.stream = rest := by
  induction m generalizing s with
  | nil => exact ⟨s, rfl, hm, hr, (List.append_nil _).symm, hs⟩
  | cons b m ih =>
    rw [List.length_cons] at hroom
    have hlt : s.MLEN < s.msgMax.val := by omega
    obtain ⟨t, hrun, hload, hread, hmessage, hrest⟩ :=
      ih (s := (s.take _).append (b.zeroExtend 16)) hm (messageReadable_append (s := s.take _) hr hlt _)
        (by simp; omega) rfl
    have hpush := (step_hostCommand (i := .push (b.zeroExtend 16)) rfl hs).trans
      (exec_push_append (s := s.take _) hm (toNat_zeroExtend_le b) hlt)
    refine ⟨t, runResponses_succ hpush hrun, hload, hread, ?_, hrest⟩
    rw [hmessage, State.message_append, byteOfCode_zeroExtend, List.append_assoc]
    rfl

/-- In `DONE`, reads of digest characters respond them one by one. -/
theorem run_rdhexs (l : List (BitVec 6)) {s : State} {rest : List Event} (hm : s.MODE = .done)
    (hs : s.stream = hostEvents (l.map .rdhex) ++ rest) :
    ∃ t, runResponses l.length s = some (t, l.map fun i => some (s.DIGEST[index64 i].zeroExtend 32)) ∧
      t.MODE = .done ∧ t.stream = rest := by
  induction l generalizing s with
  | nil => exact ⟨s, rfl, hm, hs⟩
  | cons i l ih =>
    have hread := (step_hostCommand (i := .rdhex i) rfl hs).trans (exec_rdhex_of_done (s := s.take _) hm i)
    obtain ⟨t, hrun, hdone, hrest⟩ := ih (s := (s.take _).respond (s.DIGEST[index64 i].zeroExtend 32)) hm rfl
    exact ⟨t, runResponses_succ hread hrun, hdone, hrest⟩

/-- `RDDIGEST` reads the characters in their order (30_encoding.md R83). -/
theorem rddigest_eq : rddigest = (roundIndices.map BitVec.ofFin).map .rdhex := by decide

theorem map_getElem_roundIndices {α : Type} (v : Vector α 64) : (roundIndices.map fun i => v[i]) = v.toList :=
  List.ext_getElem (by simp [roundIndices]) (by simp [roundIndices])

/-- `RDDIGEST` in `DONE` responds the digest string. -/
theorem run_rddigest {s : State} {rest : List Event} (hm : s.MODE = .done)
    (hs : s.stream = hostEvents rddigest ++ rest) :
    ∃ t, runResponses 64 s = some (t, s.DIGEST.toList.map fun b => some (b.zeroExtend 32)) ∧ t.MODE = .done ∧
      t.stream = rest := by
  rw [rddigest_eq] at hs
  rw [← map_getElem_roundIndices, List.map_map]
  have hrun := run_rdhexs (roundIndices.map BitVec.ofFin) hm hs
  rw [List.map_map, List.length_map] at hrun
  exact hrun

/-- Settles O60: `CLR`, the pushes, `HASH` and `RDDIGEST`, one after the other. -/
theorem sha256PseudoInstruction : Obligations.Sha256PseudoInstruction := by
  intro s m rest hroom hs
  simp only [sha256Commands, hostEvents_append, List.append_assoc] at hs
  have hclr := (step_hostCommand (i := .clr) (is := []) rfl hs).trans (exec_clr _)
  obtain ⟨t, hpush, hload, hread, hmessage, ht⟩ :=
    run_pushs m (s := (s.take _).clear) (rest := hostEvents [.hash] ++ (hostEvents rddigest ++ rest)) rfl
      (messageReadable_clear _) (by simpa using hroom) rfl
  have hexec := execHash_load (s := t.take (hostEvents rddigest ++ rest)) hload hread
  have hhash := (step_hostCommand (i := .hash) (is := []) rfl ht).trans hexec
  obtain ⟨_, hdigest⟩ := hash_leaves_digest (s := t.take (hostEvents rddigest ++ rest)) hload hexec
  obtain ⟨u, hreads, hdone, hu⟩ :=
    run_rddigest (s := (t.take (hostEvents rddigest ++ rest)).hashed) (State.hashed_MODE _) (State.hashed_stream _)
  have htext : (t.take (hostEvents rddigest ++ rest)).message = m := hmessage
  rw [hdigest, htext] at hreads
  have hresponses : ∀ rs : List (Option Word), List.replicate (m.length + 2) none ++ rs =
      none :: (List.replicate m.length none ++ none :: rs) := fun rs => by
    rw [List.replicate_succ, List.replicate_succ', List.cons_append, List.append_assoc, List.singleton_append]
  refine ⟨u, ?_, hu, hdone⟩
  rw [hresponses]
  exact runResponses_succ hclr (runResponses_add hpush (runResponses_succ hhash hreads))

end Sys2Proof.Machine
end
